-- ==== Sys2Proof/Word.lean ====
section
/-! DEFINITION. The word types of the block: register words, bytes of a word, byte offsets of the window. -/

namespace Sys2Proof

/-- A register word: 32 bits, bit 0 least significant (R9, R22). -/
abbrev Word := BitVec 32

/-- One byte lane of a word (R62). -/
abbrev Byte := BitVec 8

/-- A byte offset in the 4 KiB register window (R60). -/
abbrev Offset := BitVec 12

end Sys2Proof
end

