-- ==== Sys2Proof/Syntax.lean ====
section
/-! DEFINITION. The commands of the opcode table, and the events the environment gives the block. -/

namespace Sys2Proof

/-- The eight commands of R81, one per row of opcode_table.json. No command has an operand field:
each finds its operands in fixed registers (R83). -/
inductive Instr
  /-- `NOP`, 0x00000000 (R107). -/
  | nop
  /-- `CANON`, 0x00000001 (R123). -/
  | canon
  /-- `MULV`, 0x00000002 (R124). -/
  | mulv
  /-- `MULV.R`, 0x00000012 (R125). -/
  | mulvR
  /-- `DET`, 0x00000003 (R144). -/
  | det
  /-- `ADJ`, 0x00000004 (R146). -/
  | adj
  /-- `MODINV`, 0x00000005 (R162). -/
  | modinv
  /-- `MATINV`, 0x00000006 (R164). -/
  | matinv
deriving DecidableEq, Repr

/-- One transaction on the host port (R61). `size` is the number of bytes the host asks for: the
port has accesses of one whole word only, and WellFormed refuses every other (R63, U3). -/
inductive Transaction
  /-- `MemRead(off, size)`. -/
  | read (off : Offset) (size : Nat)
  /-- `MemWrite(off, size, v)`. -/
  | write (off : Offset) (size : Nat) (v : Word)
deriving DecidableEq, Repr

/-- What may happen next at the block: a host step, the engine's turn to complete (the draw of
`LATENCY`, R103), or the reset input changing level (R8, R210). -/
inductive Event
  /-- The port performs this host transaction. -/
  | host (t : Transaction)
  /-- The latency drawn for the command in flight, if there is one, ends here. -/
  | engine
  /-- The input `rst` takes this level. -/
  | rst (level : Bool)
deriving DecidableEq, Repr

end Sys2Proof
end

