-- ==== Sys2Proof/WellFormed.lean ====
section
/-! DEFINITION. Which instructions and which host transactions are well formed. -/

namespace Sys2Proof

/-- Every command is well formed: a command has no register number and no immediate that could be out
of range (R83). -/
def Instr.wellFormed : Instr → Bool
  | .nop => true
  | .canon => true
  | .mulv => true
  | .mulvR => true
  | .det => true
  | .adj => true
  | .modinv => true
  | .matinv => true

/-- The offset a transaction asks for. -/
def Transaction.off : Transaction → Offset
  | .read off _ => off
  | .write off _ _ => off

/-- The number of bytes a transaction asks for. -/
def Transaction.size : Transaction → Nat
  | .read _ size => size
  | .write _ size _ => size

/-- A byte offset is a word offset when its two low bits are 0 (U3, R63). -/
def isWordOffset (off : Offset) : Bool := off.toNat % 4 == 0

/-- A transaction is well formed when it is one whole 32-bit word at a word offset (R63, U3). -/
def Transaction.wellFormed (t : Transaction) : Bool := t.size == 4 && isWordOffset t.off

end Sys2Proof
end

