-- ==== Sys2Proof/Decode.lean ====
section
/-! DEFINITION. The command word: its fields, the decoder, total on all 2^32 words, and the encoder. -/

namespace Sys2Proof

/-- The field `OP`, bits 3:0 of a command word (R80). -/
def opField (c : Word) : BitVec 4 := c.extractLsb' 0 4

/-- The field `MSEL`, bit 4 of a command word (R80, R82). -/
def mselField (c : Word) : BitVec 1 := c.extractLsb' 4 1

/-- The field `RSV`, bits 31:5 of a command word (R80). -/
def rsvField (c : Word) : BitVec 27 := c.extractLsb' 5 27

/-- Why a word is no command: the three cases of R85. -/
inductive DecodeError
  /-- `RSV ≠ 0`. -/
  | reservedBits
  /-- `MSEL = 1` and `OP ≠ 0x2`. -/
  | mselWithoutMulv
  /-- `OP` is 0x7 to 0xF. -/
  | reservedOp
deriving DecidableEq, Repr

/-- The command a word selects (R81, R82), or the first of the three reasons of R85 why it is illegal. -/
def decode (c : Word) : Except DecodeError Instr :=
  if rsvField c ≠ 0 then .error .reservedBits
  else if mselField c = 1 then
    if opField c = 0x2 then .ok .mulvR else .error .mselWithoutMulv
  else if opField c = 0x0 then .ok .nop
  else if opField c = 0x1 then .ok .canon
  else if opField c = 0x2 then .ok .mulv
  else if opField c = 0x3 then .ok .det
  else if opField c = 0x4 then .ok .adj
  else if opField c = 0x5 then .ok .modinv
  else if opField c = 0x6 then .ok .matinv
  else .error .reservedOp

/-- The word with the fields `OP` and `MSEL`, and `RSV` = 0 (R80). -/
def commandWord (op : BitVec 4) (msel : BitVec 1) : Word := (0 : BitVec 27) ++ msel ++ op

/-- The `OP` of each command (R81). -/
def Instr.op : Instr → BitVec 4
  | .nop => 0x0
  | .canon => 0x1
  | .mulv => 0x2
  | .mulvR => 0x2
  | .det => 0x3
  | .adj => 0x4
  | .modinv => 0x5
  | .matinv => 0x6

/-- The `MSEL` of each command: 1 for `MULV.R` only (R81, R82). -/
def Instr.msel : Instr → BitVec 1
  | .mulvR => 1
  | .nop => 0
  | .canon => 0
  | .mulv => 0
  | .det => 0
  | .adj => 0
  | .modinv => 0
  | .matinv => 0

/-- The word of each command (R80, R81). -/
def encode (i : Instr) : Word := commandWord i.op i.msel

/-- A command word is illegal when any of the three cases of R85 holds. -/
def illegal (c : Word) : Bool :=
  7 ≤ (opField c).toNat || (mselField c == 1 && opField c != 0x2) || rsvField c != 0

/-- The instruction the decoder reads from the low `nbits` bits of `w`, numbered as
opcode_table.json numbers them: every command is one 32-bit word (R87), so the bits above `nbits`
are zero. -/
def decodeTableWord (nbits w : Nat) : Option Instr :=
  match decode (BitVec.ofNat 32 (w % 2 ^ nbits)) with
  | .ok i => some i
  | .error _ => none

end Sys2Proof
end

