-- ==== Sys2Proof/Config.lean ====
section
/-! DEFINITION. What one instance of the block fixes: the parameters of R7 and the OPEN parameters of
92_eei_decisions.md that are not part of the state. -/

namespace Sys2Proof.Config

/-- A legal value of the parameter `NMAX`, the largest matrix dimension: 1 to 7 (R7, R25). -/
abbrev NMax := { n : Nat // 1 ≤ n ∧ n ≤ 7 }

/-- `NMAX` of this instance (R7, decision D5). Every other legal value is a value of the field
`nmax` of the state, so statements about every state are about every instance. -/
def nmaxDefault : NMax := ⟨6, by decide⟩

/-- The constant of the register `ID`, the bytes "HILL" (R23). -/
def idValue : Word := 0x48494C4C

/-- The constant of the register `VERSION`: `MAJOR` = 1, `MINOR` = 0 (R24). -/
def versionValue : Word := 0x00010000

/-- The modulus of all arithmetic (R4), readable in `PARAM.MODULUS` (R25). -/
def modulus : Nat := 26

/-- `BASE`, the system address the platform gives the window: an OPEN parameter (R60, U2), so it has
no body and no statement can rest on a value of it. -/
opaque base : Nat

end Sys2Proof.Config
end

