-- ==== Sys2Proof/Machine/State.lean ====
section
/-! DEFINITION. The state of the block as plain data, what it is at reset, and the ways a step can stop. -/

namespace Sys2Proof.Machine

/-- `ENGINE_STATE` with `INFLIGHT` (R41). `INFLIGHT` is meaningful only while BUSY, so it stands only
there: in the idle engine it has no value (U15). -/
inductive Engine
  | idle
  | busy (inflight : Word)
deriving DecidableEq, Repr

/-- The error codes the block can record in `STATUS.ERRCODE` (R181). The reserved codes are never
written (U14). -/
inductive ErrCode
  | none
  | illegalCommand
  | invalidMatrixDimension
  | noModularInverse
  | nonInvertibleMatrix
deriving DecidableEq, Repr

/-- A file of eight registers. The window has eight slots for a row or a vector; slots at or above
`NMAX` are reserved (R40) and nothing reads or writes them. -/
abbrev VecFile (w : Nat) := Vector (BitVec w) 8

/-- A matrix file, row by row (R36, R39). -/
abbrev MatFile := Vector (VecFile 32) 8

/-- The state of one block, its inputs and its schedule. Registers whose bits [31:5] are always 0
(R38, R43, R44) are stored in 5 bits; `STATUS.BUSY` and `STATUS.ERR` are not stored (R29, R31). -/
structure State where
  /-- `NMAX`, read in `PARAM.NMAX` (R25); constant in one instance. -/
  nmax : Config.NMax
  /-- `DIM.N` (R26). -/
  dimN : BitVec 3
  /-- `STATUS.DONE` (R30). -/
  done : Bool
  /-- `STATUS.OVR` (R32). -/
  ovr : Bool
  /-- `STATUS.ERRCODE` (R31). -/
  errcode : ErrCode
  /-- `IRQ_EN.DONE_IE` (R33). -/
  doneIe : Bool
  /-- `ERR_INFO` (R34). -/
  errInfo : Word
  /-- `LAST_CMD` (R35). -/
  lastCmd : Word
  /-- `SCALAR_IN` (R42). -/
  scalarIn : Word
  /-- `SCALAR_OUT.VALUE` (R43). -/
  scalarOut : BitVec 5
  /-- `DET_RES.VALUE` (R44). -/
  detRes : BitVec 5
  /-- The 256-bit word `D = {DET_RAW7, …, DET_RAW0}` (R15, R45). -/
  detRaw : BitVec 256
  /-- The key matrix file `K` (R36). -/
  k : MatFile
  /-- The input vector file `V` (R37). -/
  v : VecFile 32
  /-- The output vector file `W` (R38). -/
  w : VecFile 5
  /-- The result matrix file `R` (R39). -/
  r : MatFile
  /-- `ENGINE_STATE` and `INFLIGHT` (R41). -/
  engine : Engine
  /-- The level of the reset input `rst` (R210). -/
  rst : Bool
  /-- `rdata`: the word the last host read returned (R61). -/
  rdata : Word
  /-- What the environment does next, first event first: the order in which the port receives the
  hosts' transactions (`HOST_ORDER`, R70), the latencies drawn for commands (`LATENCY`, R103) and
  the levels of `rst`. The model's own field; any list is allowed, so every interleaving is. -/
  agenda : List Event
deriving DecidableEq, Repr

/-- A register file of zeros (R47). -/
def zeroVec (w : Nat) : VecFile w := Vector.replicate 8 0

/-- A matrix file of zeros (R47). -/
def zeroMat : MatFile := Vector.replicate 8 (zeroVec 32)

/-- The machine right after reset (R47, R212): every register 0, the engine IDLE, `rst` low, and an
environment that has nothing to do. -/
def State.reset : State where
  nmax := Config.nmaxDefault
  dimN := 0
  done := false
  ovr := false
  errcode := .none
  doneIe := false
  errInfo := 0
  lastCmd := 0
  scalarIn := 0
  scalarOut := 0
  detRes := 0
  detRaw := 0
  k := zeroMat
  v := zeroVec 32
  w := zeroVec 5
  r := zeroMat
  engine := .idle
  rst := false
  rdata := 0
  agenda := []

/-- Reasons for the block to stop with a fault: there are none. The spec's errors are outcomes of
commands after which the block goes on (R180), no access traps (R63), and the engine has no step
that can hang (R103). -/
inductive Fault where
deriving DecidableEq, Repr

/-- Reasons for the model to have no transition. -/
inductive Refusal
  /-- Raised by `exec` for an instruction that has no meaning yet; no arm does. Safe. -/
  | notModelled (mnemonic : String)
  /-- Raised by a host transaction whose size is not one 32-bit word (R63, U3: "A model refuses a
  sub-word access rather than give it a meaning"). Safe. -/
  | subWordAccess
  /-- Raised by a host transaction of one word at an offset that is not a word offset (U3: "The model
  has no transition for such an access"). Safe. -/
  | misalignedAccess
deriving DecidableEq, Repr

end Sys2Proof.Machine
end

