-- ==== Sys2Proof/Machine/Flags.lean ====
section
/-! DEFINITION. The flags: the words `STATUS`, `IRQ_EN` and `PARAM`, the error codes and the interrupt. -/

namespace Sys2Proof.Machine

/-- The numeric code in `STATUS.ERRCODE` (R181). -/
def ErrCode.code : ErrCode → BitVec 4
  | .none => 0x0
  | .illegalCommand => 0x1
  | .invalidMatrixDimension => 0x2
  | .noModularInverse => 0x3
  | .nonInvertibleMatrix => 0x4

/-- `STATUS.BUSY`: 1 exactly when the engine is BUSY (R29). -/
def Engine.isBusy : Engine → Bool
  | .idle => false
  | .busy _ => true

/-- `STATUS.ERR`: 1 exactly when `ERRCODE ≠ 0` (R31). -/
def errFlag (s : State) : Bool := s.errcode.code != 0

/-- The bit of a flag. -/
def bit (b : Bool) : BitVec 1 := BitVec.ofBool b

/-- The word `STATUS` (R28). -/
def statusWord (s : State) : Word :=
  (0 : BitVec 20) ++ s.errcode.code ++ (0 : BitVec 4)
    ++ bit s.ovr ++ bit (errFlag s) ++ bit s.done ++ bit s.engine.isBusy

/-- The word `IRQ_EN` (R33). -/
def irqEnWord (s : State) : Word := (bit s.doneIe).setWidth 32

/-- The word `PARAM`: `NMAX` in bits 3:0 and the modulus in bits 15:8 (R25). -/
def paramWord (s : State) : Word :=
  (0 : BitVec 16) ++ BitVec.ofNat 8 Config.modulus ++ (0 : BitVec 4) ++ BitVec.ofNat 4 s.nmax.val

/-- The interrupt output (R46, R189). -/
def irq (s : State) : Bool := s.done && s.doneIe

end Sys2Proof.Machine
end

