-- ==== Sys2Proof/Machine/Operands.lean ====
section
/-! DEFINITION. How commands find their operands in the fixed registers and how results are laid out in
them (R83, R84). -/

namespace Sys2Proof.Machine

/-- A matrix of integers, rows and columns counted from 0 (R11). Its size stands beside it; what it
gives outside its size is never used. -/
abbrev IntMat := Nat → Nat → Int

/-- A vector of integers. -/
abbrev IntVec := Nat → Int

/-- The signed integer a register word encodes (R9). -/
def sint32 (w : Word) : Int := w.toInt

/-- Element `j` of a register file; 0 beyond the eight slots, which no rule reads. -/
def vecEntry {w : Nat} (f : VecFile w) (j : Nat) : BitVec w := f[j]?.getD 0

/-- Element `[i][j]` of a matrix file. -/
def matEntry (m : MatFile) (i j : Nat) : Word := vecEntry (m[i]?.getD (zeroVec 32)) j

/-- The file whose element `j` is `f j`. -/
def vecOf {w : Nat} (f : Nat → BitVec w) : VecFile w := Vector.ofFn fun j => f j.val

/-- The matrix file whose element `[i][j]` is `f i j`. -/
def matOf (f : Nat → Nat → Word) : MatFile := Vector.ofFn fun i => vecOf (f i.val)

/-- The file with element `j` replaced. -/
def vecSet {w : Nat} (f : VecFile w) (j : Fin 8) (x : BitVec w) : VecFile w := f.set j.val x

/-- The matrix file with element `[i][j]` replaced. -/
def matSet (m : MatFile) (i j : Fin 8) (x : Word) : MatFile := m.set i.val (vecSet m[i.val] j x)

/-- The entries of a matrix file as integers: `K_N` or `R_N` beside its size `N` (R11). -/
def matInts (m : MatFile) : IntMat := fun i j => sint32 (matEntry m i j)

/-- The entries of a vector file as integers: `V_N` beside its size `N` (R11). -/
def vecInts (f : VecFile 32) : IntVec := fun j => sint32 (vecEntry f j)

/-- The dimension `N = uint(DIM[2:0])` of the matrix commands (R83). -/
def dimension (s : State) : Nat := s.dimN.toNat

/-- `zext_32` of a residue register (R84). -/
def zext32 (x : BitVec 5) : Word := x.setWidth 32

/-- A residue as the 5 bits its register stores (R84). -/
def residue5 (x : Int) : BitVec 5 := BitVec.ofInt 5 x

/-- A residue as a whole register word (R84). -/
def residue32 (x : Int) : Word := BitVec.ofInt 32 x

/-- `emod(d, 2^256)`: the 256-bit two's complement word that stores a determinant (R15). -/
def detWord (d : Int) : BitVec 256 := BitVec.ofInt 256 d

/-- `DET_RAW<k>`: bits 32k+31 to 32k of the 256-bit word (R15, R45). -/
def detRawWord (d : BitVec 256) (k : Nat) : Word := d.extractLsb' (32 * k) 32

/-- A result vector of size `n`, with 0 in every element outside it (R110). -/
def zeroFilledVec (n : Nat) (f : IntVec) : VecFile 5 :=
  vecOf fun i => if i < n then residue5 (f i) else 0

/-- A result matrix of size `n`, with 0 in every element outside it (R110). -/
def zeroFilledMat (n : Nat) (f : IntMat) : MatFile :=
  matOf fun i j => if i < n ∧ j < n then residue32 (f i j) else 0

end Sys2Proof.Machine
end

