-- ==== Sys2Proof/Machine/Ops.lean ====
section
/-! DEFINITION. The named operations: the register map, reads and writes of the window, accepting a
command, completing one, raising and acknowledging an error, and reset. -/

namespace Sys2Proof.Machine

/-! ## The register map -/

/-- The registers of the window (R22). -/
inductive Reg
  | id
  | version
  | param
  | dim
  | cmd
  | status
  | irqEn
  | errInfo
  | lastCmd
  | scalarIn
  | scalarOut
  | detRes
  | detRaw (k : Fin 8)
  | k (i j : Fin 8)
  | v (j : Fin 8)
  | w (i : Fin 8)
  | r (i j : Fin 8)
  | reserved
deriving DecidableEq, Repr

/-- The register in word slot `x` of the control registers, offsets 0x000 to 0x03C (R22). -/
def controlReg (x : Nat) : Reg :=
  match x with
  | 0 => .id
  | 1 => .version
  | 2 => .param
  | 3 => .dim
  | 4 => .cmd
  | 5 => .status
  | 6 => .irqEn
  | 7 => .errInfo
  | 8 => .lastCmd
  | 9 => .scalarIn
  | 10 => .scalarOut
  | 11 => .detRes
  | _ => .reserved

/-- Element `j` of a vector file, or a reserved slot when `j ≥ NMAX` (R40). -/
def vectorReg (nmax j : Nat) (f : Fin 8 → Reg) : Reg :=
  if j < nmax then f (Fin.ofNat 8 j) else .reserved

/-- The element in word slot `x` of a matrix file, eight slots a row, or a reserved slot when an index is
at least `NMAX` (R40). -/
def matrixReg (nmax x : Nat) (f : Fin 8 → Fin 8 → Reg) : Reg :=
  if x / 8 < nmax then vectorReg nmax (x % 8) (f (Fin.ofNat 8 (x / 8))) else .reserved

/-- The register in word slot `x` of the window, its byte offset divided by 4, in an instance with this
`NMAX` (R22, R40). -/
def slotReg (nmax x : Nat) : Reg :=
  if x < 0x040 / 4 then controlReg x
  else if x < 0x060 / 4 then .detRaw (Fin.ofNat 8 (x - 0x040 / 4))
  else if x < 0x100 / 4 then .reserved
  else if x < 0x200 / 4 then matrixReg nmax (x - 0x100 / 4) .k
  else if x < 0x220 / 4 then vectorReg nmax (x - 0x200 / 4) .v
  else if x < 0x280 / 4 then .reserved
  else if x < 0x2A0 / 4 then vectorReg nmax (x - 0x280 / 4) .w
  else if x < 0x300 / 4 then .reserved
  else if x < 0x400 / 4 then matrixReg nmax (x - 0x300 / 4) .r
  else .reserved

/-- The register a byte offset reaches. The port never sees the two low bits of an offset (R63); that a host
access with one of them set has no transition is hostTurn's (U3). -/
def regAt (nmax : Nat) (off : Offset) : Reg := slotReg nmax (off.toNat / 4)

/-- The window offset of a system address, when the window holds it (R60, `BASE`). -/
def windowOffset (addr : Nat) : Option Offset :=
  if Config.base ≤ addr ∧ addr < Config.base + 4096 then some (BitVec.ofNat 12 (addr - Config.base))
  else none

/-! ## Reads of the window -/

/-- The value a register reads as (R22 to R45). -/
def regValue (s : State) : Reg → Word
  | .id => Config.idValue
  | .version => Config.versionValue
  | .param => paramWord s
  | .dim => s.dimN.setWidth 32
  | .cmd => 0
  | .status => statusWord s
  | .irqEn => irqEnWord s
  | .errInfo => s.errInfo
  | .lastCmd => s.lastCmd
  | .scalarIn => s.scalarIn
  | .scalarOut => zext32 s.scalarOut
  | .detRes => zext32 s.detRes
  | .detRaw k => detRawWord s.detRaw k.val
  | .k i j => matEntry s.k i.val j.val
  | .v j => vecEntry s.v j.val
  | .w i => zext32 (vecEntry s.w i.val)
  | .r i j => matEntry s.r i.val j.val
  | .reserved => 0

/-- The word `MemRead(off, 4)` returns (R61, R65). -/
def hostRead (off : Offset) (s : State) : Word := regValue s (regAt s.nmax.val off)

/-- The byte a host sees at a byte offset: byte `k` of a word is its bits 8k+7 to 8k (R62). -/
def windowByte (a : Offset) (s : State) : Byte :=
  (hostRead a s).extractLsb' (8 * (a.toNat % 4)) 8

/-! ## Accepting a command -/

/-- The block takes the command word `c` (R100). -/
def acceptCommand (c : Word) (s : State) : State :=
  { s with
    engine := .busy c, lastCmd := c, errcode := .none, errInfo := 0, done := false }

/-- A dropped write: the sticky flag `OVR` rises and nothing else changes (R101, R102, R188). -/
def overrun (s : State) : State := { s with ovr := true }

/-- The effect `f` of a write that is dropped while the engine is BUSY (R102). -/
def unlessBusy (f : State → State) (s : State) : State :=
  if s.engine.isBusy then overrun s else f s

/-! ## Completing a command -/

/-- The result registers a successful command writes (R83). -/
inductive ResultWrites
  | none
  | scalarOut (x : BitVec 5)
  | w (f : VecFile 5)
  | det (raw : BitVec 256) (res : BitVec 5)
  | r (m : MatFile)
deriving DecidableEq, Repr

/-- How a command ends (R12): `ok` with the writes it performs, or an error with its information. -/
inductive CmdOutcome
  | ok (writes : ResultWrites)
  | error (code : ErrCode) (info : Word)
deriving DecidableEq, Repr

/-- Perform the writes of a successful command, all together (R103, R105). -/
def performWrites (x : ResultWrites) (s : State) : State :=
  match x with
  | .none => s
  | .scalarOut x => { s with scalarOut := x }
  | .w f => { s with w := f }
  | .det raw res => { s with detRaw := raw, detRes := res }
  | .r m => { s with r := m }

/-- Taking an error, the block's counterpart of trap entry: the code goes to `ERRCODE` and the cause
to `ERR_INFO`, and nothing else changes (R180, R190). `LAST_CMD` already holds the word (R100). -/
def raiseError (code : ErrCode) (info : Word) (s : State) : State :=
  { s with errcode := code, errInfo := info }

/-- The end of every completion: the engine is IDLE and `DONE` is set (R103). -/
def finish (s : State) : State := { s with engine := .idle, done := true }

/-- The engine's step `Complete` with the outcome of the command in flight (R103, R105). -/
def complete (o : CmdOutcome) (s : State) : State :=
  match o with
  | .ok writes => finish (performWrites writes s)
  | .error code info => finish (raiseError code info s)

/-- The dimension check of the matrix commands, made before any arithmetic (R104, R109, R183). -/
def withDimension (body : Nat → CmdOutcome) (s : State) : CmdOutcome :=
  if 1 ≤ dimension s ∧ dimension s ≤ s.nmax.val then body (dimension s)
  else .error .invalidMatrixDimension (BitVec.ofNat 32 (dimension s))

/-! ## Writes of the window -/

/-- The effect of a host write to `STATUS`: bits 1 and 3 clear `DONE` and `OVR` (R28). Writing bit 1
is how the host returns from a completion: it acknowledges it and lowers `irq` (R191). -/
def writeStatus (x : Word) (s : State) : State :=
  { s with done := s.done && !x.getLsbD 1, ovr := s.ovr && !x.getLsbD 3 }

/-- The effect of a host write of `x` to a register (R26 to R40, R65 to R67). -/
def regWrite (x : Word) (s : State) : Reg → State
  | .id => s
  | .version => s
  | .param => s
  | .dim => unlessBusy (fun s => { s with dimN := x.extractLsb' 0 3 }) s
  | .cmd => unlessBusy (acceptCommand x) s
  | .status => writeStatus x s
  | .irqEn => { s with doneIe := x.getLsbD 0 }
  | .errInfo => s
  | .lastCmd => s
  | .scalarIn => unlessBusy (fun s => { s with scalarIn := x }) s
  | .scalarOut => s
  | .detRes => s
  | .detRaw _ => s
  | .k i j => unlessBusy (fun s => { s with k := matSet s.k i j x }) s
  | .v j => unlessBusy (fun s => { s with v := vecSet s.v j x }) s
  | .w _ => s
  | .r i j => unlessBusy (fun s => { s with r := matSet s.r i j x }) s
  | .reserved => s

/-- What `MemWrite(off, 4, x)` does (R61, R65). -/
def hostWrite (off : Offset) (x : Word) (s : State) : State := regWrite x s (regAt s.nmax.val off)

/-! ## Reset -/

/-- Every register at its reset value and the engine IDLE (R210), with `rst` at this level. The
instance's `NMAX` and what the environment does next are not the block's to reset. -/
def resetBlock (level : Bool) (s : State) : State :=
  { State.reset with nmax := s.nmax, agenda := s.agenda, rst := level }

end Sys2Proof.Machine
end

