-- ==== Sys2Proof/Machine/Control.lean ====
section
/-! DEFINITION. The control commands: NOP and the illegal command. -/

namespace Sys2Proof.Machine

/-- `NOP` completes and writes no result register (R107). -/
def execNop (s : State) : Host.Outcome State Fault Refusal :=
  .next (complete (.ok .none) s)

/-- The completion of an illegal word `c`: error IllegalCommand with the whole word in `ERR_INFO`,
before any other check (R108, R182, R187). -/
def execIllegal (c : Word) (s : State) : Host.Outcome State Fault Refusal :=
  .next (complete (.error .illegalCommand c) s)

end Sys2Proof.Machine
end

