-- ==== Sys2Proof/Machine/Units.lean ====
section
/-! DEFINITION. The arithmetic of the six units, in exact integers (R2, R121). -/

namespace Sys2Proof.Machine

/-- The sum of `f 0` to `f (n - 1)`, exact (R121). -/
def sumTo : Nat → IntVec → Int
  | 0, _ => 0
  | n + 1, f => sumTo n f + f n

/-- residue_canonicalizer: the source's formula, with the Euclidean remainder for its `mod` (R120). -/
def canon (x : Int) : Int := ((x % 26) + 26) % 26

/-- The integer sums of `multiplyMatrixVector`, one per row, not yet reduced (R124). -/
def rowSum (n : Nat) (m : IntMat) (v : IntVec) : IntVec := fun i => sumTo n fun j => m i j * v j

/-- modular_matrix_mult_z26: `multiplyMatrixVector` (R124). -/
def multiplyMatrixVector (n : Nat) (m : IntMat) (v : IntVec) : IntVec := fun i => canon (rowSum n m v i)

/-- The submatrix without one row and one column (R140). -/
def minor (m : IntMat) (row col : Nat) : IntMat := fun a b =>
  m (if a < row then a else a + 1) (if b < col then b else b + 1)

/-- The sign of position `(i, j)` (R145); `cofactorSign 0 f` is `(-1)^f` (R141). -/
def cofactorSign (i j : Nat) : Int := if (i + j) % 2 = 0 then 1 else -1

/-- determinant_z26_compute: Laplace expansion along row 0, for size `n ≥ 1` (R141). Size 0 is asked
for by no command; it is given the empty product. -/
def determinant : Nat → IntMat → Int
  | 0, _ => 1
  | 1, m => m 0 0
  | n + 2, m => sumTo (n + 2) fun f => cofactorSign 0 f * m 0 f * determinant (n + 1) (minor m 0 f)

/-- cofactor_adjoint_z26: entry `[j][i]` is the reduced cofactor of position `(i, j)` (R145). -/
def adjoint (n : Nat) (m : IntMat) : IntMat := fun j i =>
  if n = 1 then 1 else canon (cofactorSign i j * determinant (n - 1) (minor m i j))

/-- The candidates the source searches, 1 to 25 (R160). -/
def inverseCandidates : List Int :=
  [1, 2, 3, 4, 5, 6, 7, 8, 9, 10, 11, 12, 13, 14, 15, 16, 17, 18, 19, 20, 21, 22, 23, 24, 25]

/-- modular_inverse_z26: the inverse of `a` modulo 26, or none for `NoModularInverse` (R160). -/
def modularInverse (a : Int) : Option Int :=
  if Int.gcd (canon a) 26 ≠ 1 then none
  else inverseCandidates.find? fun x => (canon a * x) % 26 == 1

/-- matrix_inversion_z26: the inverse matrix modulo 26, or none for `NonInvertibleMatrix` (R163). -/
def inverseMatrix (n : Nat) (m : IntMat) : Option IntMat :=
  match modularInverse (canon (determinant n m)) with
  | none => none
  | some dInv => some fun i j => canon (adjoint n m i j * dInv)

end Sys2Proof.Machine
end

