-- ==== Sys2Proof/Machine/Matrix.lean ====
section
/-! DEFINITION. The commands on the key matrix alone: DET, ADJ and MATINV. -/

namespace Sys2Proof.Machine

/-- `DET`: the exact determinant of `K_N` in 256 bits, and its residue (R144). -/
def detOutcome (s : State) : CmdOutcome :=
  withDimension (fun n =>
    .ok (.det (detWord (determinant n (matInts s.k))) (residue5 (canon (determinant n (matInts s.k)))))) s

/-- `DET` completes (R144). -/
def execDet (s : State) : Host.Outcome State Fault Refusal := .next (complete (detOutcome s) s)

/-- `ADJ`: the adjugate of `K_N`, zero-filled, singular or not (R146). -/
def adjOutcome (s : State) : CmdOutcome :=
  withDimension (fun n => .ok (.r (zeroFilledMat n (adjoint n (matInts s.k))))) s

/-- `ADJ` completes (R146). -/
def execAdj (s : State) : Host.Outcome State Fault Refusal := .next (complete (adjOutcome s) s)

/-- `MATINV`: the inverse of `K_N`, zero-filled, or error NonInvertibleMatrix with the residue of the
determinant (R164, R185). -/
def matinvOutcome (s : State) : CmdOutcome :=
  withDimension (fun n =>
    match inverseMatrix n (matInts s.k) with
    | none => .error .nonInvertibleMatrix (residue32 (canon (determinant n (matInts s.k))))
    | some inv => .ok (.r (zeroFilledMat n inv))) s

/-- `MATINV` completes (R164). -/
def execMatinv (s : State) : Host.Outcome State Fault Refusal := .next (complete (matinvOutcome s) s)

end Sys2Proof.Machine
end

