-- ==== Sys2Proof/Machine/Multiply.lean ====
section
/-! DEFINITION. The matrix-vector multiplies: MULV and MULV.R. -/

namespace Sys2Proof.Machine

/-- The product of the leading block of a matrix file with `V_N`, one lane per row, zero-filled
(R110, R126). -/
def multiplyOutcome (m : MatFile) (s : State) : CmdOutcome :=
  withDimension (fun n => .ok (.w (zeroFilledVec n (multiplyMatrixVector n (matInts m) (vecInts s.v))))) s

/-- `MULV` multiplies by the key file `K` (R82, R124). -/
def execMulv (s : State) : Host.Outcome State Fault Refusal := .next (complete (multiplyOutcome s.k s) s)

/-- `MULV.R` multiplies by the result file `R` (R82, R125). -/
def execMulvR (s : State) : Host.Outcome State Fault Refusal := .next (complete (multiplyOutcome s.r s) s)

end Sys2Proof.Machine
end

