-- ==== Sys2Proof/Machine/Scalar.lean ====
section
/-! DEFINITION. The scalar commands: CANON and MODINV. Neither reads `DIM` (R109). -/

namespace Sys2Proof.Machine

/-- `CANON`: the residue of `sint32(SCALAR_IN)` (R123). -/
def canonOutcome (s : State) : CmdOutcome :=
  .ok (.scalarOut (residue5 (canon (sint32 s.scalarIn))))

/-- `CANON` completes (R123). -/
def execCanon (s : State) : Host.Outcome State Fault Refusal := .next (complete (canonOutcome s) s)

/-- `MODINV`: the inverse of `sint32(SCALAR_IN)`, or error NoModularInverse with its residue (R162). -/
def modinvOutcome (s : State) : CmdOutcome :=
  match modularInverse (sint32 s.scalarIn) with
  | none => .error .noModularInverse (residue32 (canon (sint32 s.scalarIn)))
  | some x => .ok (.scalarOut (residue5 x))

/-- `MODINV` completes (R162). -/
def execModinv (s : State) : Host.Outcome State Fault Refusal := .next (complete (modinvOutcome s) s)

end Sys2Proof.Machine
end

