-- ==== Sys2Proof/Machine/Dispatch.lean ====
section
/-! DEFINITION. The dispatch of a legal command to its meaning (R104). -/

namespace Sys2Proof.Machine

/-- The meaning of a legal command: its whole completion, `Complete` with the outcome of `Exec` (R103,
R104). -/
def exec (i : Instr) (s : State) : Host.Outcome State Fault Refusal :=
  match i with
  | .nop => Sys2Proof.Machine.execNop s
  | .canon => Sys2Proof.Machine.execCanon s
  | .mulv => Sys2Proof.Machine.execMulv s
  | .mulvR => Sys2Proof.Machine.execMulvR s
  | .det => Sys2Proof.Machine.execDet s
  | .adj => Sys2Proof.Machine.execAdj s
  | .modinv => Sys2Proof.Machine.execModinv s
  | .matinv => Sys2Proof.Machine.execMatinv s

end Sys2Proof.Machine
end

