-- ==== Sys2Proof/Machine/Engine.lean ====
section
/-! DEFINITION. The steps of the two agents, the host and the engine, and the reset input (R8). -/

namespace Sys2Proof.Machine

/-- The engine's turn: `Complete` for the word in flight (R103, R104). An IDLE engine has no step. -/
def engineTurn (s : State) : Host.Outcome State Fault Refusal :=
  match s.engine with
  | .idle => .next s
  | .busy c =>
    match decode c with
    | .ok i => exec i s
    | .error _ => execIllegal c s

/-- A well-formed host transaction (R61): a read returns the word in `rdata` and has no other effect
(R65), a write acts on the register at its offset. -/
def perform (t : Transaction) (s : State) : State :=
  match t with
  | .read off _ => { s with rdata := hostRead off s }
  | .write off _ x => hostWrite off x s

/-- Why an access that is not well formed has no transition (U3): its size, or its offset. -/
def accessRefusal (t : Transaction) : Refusal := if t.size = 4 then .misalignedAccess else .subWordAccess

/-- A host step. An access that is not one whole word at a word offset is refused (R63, U3). While `rst` is high writes are
ignored, reads return 0, and the block is held at its reset values (R210). -/
def hostTurn (t : Transaction) (s : State) : Host.Outcome State Fault Refusal :=
  if t.wellFormed then .next (if s.rst then resetBlock true s else perform t s)
  else .refused (accessRefusal t)

/-- The input `rst` takes a level. A rising `rst` abandons the command in flight and resets the block,
and a falling one leaves it at its reset values, IDLE (R210). -/
def setRst (level : Bool) (s : State) : State :=
  if level || s.rst then resetBlock level s else s

/-- One event, the agenda already moved past it. -/
def takeEvent (e : Event) (s : State) : Host.Outcome State Fault Refusal :=
  match e with
  | .host t => hostTurn t s
  | .engine => if s.rst then .next (resetBlock true s) else engineTurn s
  | .rst level => .next (setRst level s)

/-- The state with these events to come. -/
def withAgenda (l : List Event) (s : State) : State := { s with agenda := l }

/-- One step of the block: the next event of the environment, or, when the environment has nothing to
do, the engine's turn, so that every accepted command completes (R103). -/
def stepBlock (s : State) : Host.Outcome State Fault Refusal :=
  match s.agenda with
  | [] => takeEvent .engine s
  | e :: rest => takeEvent e (withAgenda rest s)

/-- The state in which the block has just accepted the word `c` and the latency drawn for it ends at
the next step. -/
def withCommand (c : Word) (s : State) : State :=
  { acceptCommand c s with rst := false, agenda := .engine :: s.agenda }

end Sys2Proof.Machine
end

