-- ==== Sys2Proof/Machine/Step.lean ====
section
/-! DEFINITION. The step, and how a command word comes to be the one the next step runs. -/

namespace Sys2Proof.Machine

/-- One step: the agent whose turn it is takes it (R8, R70). -/
def step (s : State) : Host.Outcome State Fault Refusal := stepBlock s

/-- `s` with the word in the low `nbits` bits of `w` accepted and in flight, and the engine's turn next.
The block fetches nothing (R21): acceptance (R100) is the only way a word comes to run. -/
def State.withFetchWord (s : State) (nbits w : Nat) : State :=
  withCommand (BitVec.ofNat 32 (w % 2 ^ nbits)) s

end Sys2Proof.Machine
end

