-- ==== Sys2Proof/Safety.lean ====
section
/-! DEFINITION. The invariant of the block, and the hosts that keep to the port. -/

namespace Sys2Proof.Machine

/-- Slots at or above `NMAX` are no registers of this instance (R40): nothing is ever stored there. -/
def State.ReservedSlotsZero (s : State) : Prop :=
  (∀ j : Fin 8, s.nmax.val ≤ j.val → vecEntry s.v j.val = 0 ∧ vecEntry s.w j.val = 0) ∧
  (∀ i j : Fin 8, s.nmax.val ≤ i.val ∨ s.nmax.val ≤ j.val →
    matEntry s.k i.val j.val = 0 ∧ matEntry s.r i.val j.val = 0)

/-- The registers that only the engine writes and that hold residues hold values below 26 (R38, R43,
R44, R122). -/
def State.ResiduesInRange (s : State) : Prop :=
  s.scalarOut.toNat < 26 ∧ s.detRes.toNat < 26 ∧ ∀ i : Fin 8, (vecEntry s.w i.val).toNat < 26

/-- What acceptance set stays so while the command is in flight (R100, R101). -/
def State.InFlightClean (s : State) : Prop :=
  ∀ c, s.engine = .busy c → s.lastCmd = c ∧ s.errcode = .none ∧ s.errInfo = 0 ∧ s.done = false

/-- `ERR_INFO` and `LAST_CMD` belong to the error in `ERRCODE` (R180, R181). -/
def State.ErrorExplained (s : State) : Prop :=
  match s.errcode with
  | .none => s.errInfo = 0
  | .illegalCommand => illegal s.lastCmd = true ∧ s.errInfo = s.lastCmd
  | .invalidMatrixDimension =>
    s.lastCmd ∈ [0x02, 0x12, 0x03, 0x04, (0x06 : Word)] ∧
      (s.errInfo.toNat = 0 ∨ s.nmax.val < s.errInfo.toNat ∧ s.errInfo.toNat ≤ 7)
  | .noModularInverse => s.lastCmd = 0x05 ∧ s.errInfo.toNat < 26 ∧ Nat.gcd s.errInfo.toNat 26 ≠ 1
  | .nonInvertibleMatrix => s.lastCmd = 0x06 ∧ s.errInfo.toNat < 26 ∧ Nat.gcd s.errInfo.toNat 26 ≠ 1

/-- While `rst` is high the block is held at its reset values (R210). -/
def State.HeldInReset (s : State) : Prop := s.rst = true → resetBlock true s = s

/-- The invariant of the block. -/
def State.Inv (s : State) : Prop :=
  s.ReservedSlotsZero ∧ s.ResiduesInRange ∧ s.InFlightClean ∧ s.ErrorExplained ∧ s.HeldInReset

/-- Every transaction to come is one whole word at a word offset (R63, U3): the runs a host may make. -/
def State.hostsKeepToThePort (s : State) : Bool :=
  s.agenda.all fun e =>
    match e with
    | .host t => t.wellFormed
    | .engine => true
    | .rst _ => true

end Sys2Proof.Machine
end

