-- ==== Sys2Proof/Certificates/Slice0/Obligations.lean ====
section
/-! DEFINITION. The statements for the provers. Each docstring names the rule of the spec it states. -/

open Sys2Proof Sys2Proof.Machine

namespace Sys2Proof.Spec

/-! ## The words of the statements -/

/-- The byte offset with this number. -/
abbrev offset (a : Nat) : Offset := BitVec.ofNat 12 a

/-- `K[i][j]` as the host reads it (R36). -/
abbrev kReg (s : State) (i j : Nat) : Word := hostRead (offset (0x100 + 0x20 * i + 4 * j)) s

/-- `V[j]` as the host reads it (R37). -/
abbrev vReg (s : State) (j : Nat) : Word := hostRead (offset (0x200 + 4 * j)) s

/-- `W[i]` as the host reads it (R38). -/
abbrev wReg (s : State) (i : Nat) : Word := hostRead (offset (0x280 + 4 * i)) s

/-- `R[i][j]` as the host reads it (R39). -/
abbrev rReg (s : State) (i j : Nat) : Word := hostRead (offset (0x300 + 0x20 * i + 4 * j)) s

/-- `K_N` as a matrix of integers (R11). -/
abbrev kMatrix (s : State) (n : Nat) : Matrix (Fin n) (Fin n) Int :=
  Matrix.of fun i j => (kReg s i.val j.val).toInt

/-- `DIM.N` as the host reads it (R26). -/
abbrev dimN (s : State) : Nat := (hostRead 0x00C s).toNat

/-- The dimension is legal in this instance (R109). -/
abbrev legalDim (s : State) : Prop := 1 ≤ dimN s ∧ dimN s ≤ s.nmax.val

/-- The state after a completion whose writes are already in `s` (R103). -/
abbrev completed (s : State) : State := { s with engine := .idle, done := true }

/-- The state after a completion with an error (R103, R105). -/
abbrev completedError (code : ErrCode) (info : Word) (s : State) : State :=
  { s with errcode := code, errInfo := info, engine := .idle, done := true }

/-- `s` with the event of this step taken off the agenda. -/
abbrev afterEvent (s : State) : State := { s with agenda := s.agenda.tail }

/-- The next step is the engine's turn: the latency ends here, or the hosts have nothing more to do. -/
def EngineHasTurn (s : State) : Prop :=
  s.rst = false ∧ (s.agenda = [] ∨ s.agenda.head? = some .engine)

/-- The next step is this host transaction. -/
def HostHasTurn (t : Transaction) (s : State) : Prop :=
  s.rst = false ∧ s.agenda.head? = some (.host t)

/-- The next step is a whole word write of `x` by the host at `off`. -/
def HostWrites (s : State) (off : Offset) (x : Word) : Prop := HostHasTurn (.write off 4 x) s

/-- The reset input acts in the next step. -/
def ResetActs (s : State) : Prop := s.rst = true ∨ s.agenda.head? = some (.rst true)

/-- The byte offset of a register in the table of R22 that the host may write and that is dropped while
BUSY: `DIM`, `SCALAR_IN`, or an element of `K`, `V` or `R` (R102). -/
def OperandOffset (nmax a : Nat) : Prop :=
  a = 0x00C ∨ a = 0x024 ∨ (∃ i j, i < nmax ∧ j < nmax ∧ a = 0x100 + 0x20 * i + 4 * j) ∨
    (∃ j, j < nmax ∧ a = 0x200 + 4 * j) ∨ ∃ i j, i < nmax ∧ j < nmax ∧ a = 0x300 + 0x20 * i + 4 * j

/-- The byte offset of a read-only register in the table of R22 (R67). -/
def ReadOnlyOffset (nmax a : Nat) : Prop :=
  a ∈ [0x000, 0x004, 0x008, 0x01C, 0x020, 0x028, 0x02C] ∨ (∃ k, k < 8 ∧ a = 0x040 + 4 * k) ∨
    ∃ i, i < nmax ∧ a = 0x280 + 4 * i

/-- The byte offset of a register in the table of R22. -/
def ListedOffset (nmax a : Nat) : Prop :=
  OperandOffset nmax a ∨ ReadOnlyOffset nmax a ∨ a = 0x010 ∨ a = 0x014 ∨ a = 0x018

/-- The offset of the word an access goes to (R63). -/
abbrev wordOffset (off : Offset) : Nat := off.toNat - off.toNat % 4

/-- The commands that read `DIM` (R109). -/
abbrev matrixCommands : List Instr := [.mulv, .mulvR, .det, .adj, .matinv]

/-- The eight command words (R81). -/
abbrev commandWords : List Word :=
  [0x00000000, 0x00000001, 0x00000002, 0x00000012, 0x00000003, 0x00000004, 0x00000005, 0x00000006]

/-- The bytes of the window outside `STATUS`, outside `ERR_INFO` and outside `[lo, hi)` read the same. -/
def WindowSameOutside (lo hi : Nat) (s t : State) : Prop :=
  ∀ a : Offset, ¬ (lo ≤ a.toNat ∧ a.toNat < hi) → ¬ (0x014 ≤ a.toNat ∧ a.toNat < 0x018) →
    ¬ (0x01C ≤ a.toNat ∧ a.toNat < 0x020) → windowByte a t = windowByte a s

end Sys2Proof.Spec

open Sys2Proof.Spec

/-! ## Encoding -/

/-- R81: each command has exactly its word, and every other word is illegal. -/
def Obligations.EveryWordDecodesByTheOpcodeMap : Prop :=
  ∀ c : Word,
    (decode c = .ok .nop ↔ c = 0x00000000) ∧ (decode c = .ok .canon ↔ c = 0x00000001) ∧
    (decode c = .ok .mulv ↔ c = 0x00000002) ∧ (decode c = .ok .mulvR ↔ c = 0x00000012) ∧
    (decode c = .ok .det ↔ c = 0x00000003) ∧ (decode c = .ok .adj ↔ c = 0x00000004) ∧
    (decode c = .ok .modinv ↔ c = 0x00000005) ∧ (decode c = .ok .matinv ↔ c = 0x00000006) ∧
    ((∃ e, decode c = .error e) ↔ c ∉ commandWords)

/-- R80, R81: decoding inverts encoding, and no other word decodes to a command. -/
def Obligations.DecodeInvertsEncode : Prop :=
  ∀ (i : Instr) (c : Word), i.wellFormed = true → (decode c = .ok i ↔ c = encode i)

/-- R80 and R81 on words written out bit by bit, one of each family and one of each reason of R85. -/
def Obligations.SampleWordsDecode : Prop :=
  decode 0b00000000000000000000000000000000 = .ok .nop ∧
  decode 0b00000000000000000000000000010010 = .ok .mulvR ∧
  decode 0b00000000000000000000000000000101 = .ok .modinv ∧
  decode 0b00000000000000000000000000000110 = .ok .matinv ∧
  decode 0b00000000000000000000000000000111 = .error .reservedOp ∧
  decode 0b00000000000000000000000000010011 = .error .mselWithoutMulv ∧
  decode 0b10000000000000000000000000000010 = .error .reservedBits

/-- R85, R108, R182: which words are illegal, that they are accepted like any other, and that they
complete with IllegalCommand, whatever `DIM.N` is, and write no result register. -/
def Obligations.IllegalWordsCompleteWithIllegalCommand : Prop :=
  ∀ c : Word,
    ((∃ e, decode c = .error e) ↔
      7 ≤ (c.extractLsb' 0 4).toNat ∨ (c.getLsbD 4 = true ∧ c.extractLsb' 0 4 ≠ 0x2) ∨ c.extractLsb' 5 27 ≠ 0) ∧
    ∀ s : State, (∃ e, decode c = .error e) →
      (s.engine = .idle → HostWrites s 0x010 c →
        ∃ t, step s = .next t ∧ t.engine = .busy c ∧ hostRead 0x020 t = c) ∧
      (s.engine = .busy c → EngineHasTurn s →
        step s = .next (completedError .illegalCommand c (afterEvent s)))

/-! ## Steps -/

/-- R103, R104: when it is the engine's turn, the step is the meaning of the decoded command in flight. -/
def Obligations.StepRunsTheDecodedCommand : Prop :=
  ∀ (s : State) (c : Word) (i : Instr), EngineHasTurn s → s.engine = .busy c → decode c = .ok i →
    step s = exec i (afterEvent s)

/-- R21, R100: a word placed by withFetchWord is accepted and runs in the very next step. -/
def Obligations.FetchedWordRunsNext : Prop :=
  ∀ (s : State) (w : Nat) (i : Instr), w < 2 ^ 32 → decodeTableWord 32 w = some i →
    step (s.withFetchWord 32 w) = exec i (acceptCommand (BitVec.ofNat 32 w) { s with rst := false })

/-- R61, R65: a host step is its read, which has no effect but the returned word, or its write, at every word
offset (AccessesAreWholeWords says what happens at another). With an idle engine nothing else moves: an engine's turn changes nothing (R212). -/
def Obligations.HostStepsReadAndWriteTheWindow : Prop :=
  ∀ s : State,
    (∀ off, off.toNat % 4 = 0 → HostHasTurn (.read off 4) s →
      step s = .next { afterEvent s with rdata := hostRead off s }) ∧
    (∀ off x, off.toNat % 4 = 0 → HostHasTurn (.write off 4 x) s →
      step s = .next (hostWrite off x (afterEvent s))) ∧
    (EngineHasTurn s → s.engine = .idle → step s = .next (afterEvent s))

/-- R100: acceptance. -/
def Obligations.IdleCommandWriteIsAccepted : Prop :=
  ∀ (s : State) (c : Word), HostWrites s 0x010 c → s.engine = .idle →
    step s = .next { afterEvent s with
      engine := .busy c, lastCmd := c, errcode := .none, errInfo := 0, done := false }

/-- R101: a command written while BUSY is dropped. -/
def Obligations.BusyCommandWriteIsDropped : Prop :=
  ∀ (s : State) (c d : Word), HostWrites s 0x010 d → s.engine = .busy c →
    step s = .next { afterEvent s with ovr := true }

/-- R102: operand writes while BUSY are dropped, `STATUS` and `IRQ_EN` writes take effect, and reads
return the current value. -/
def Obligations.BusyOperandWritesAreDropped : Prop :=
  ∀ (s : State) (c : Word), s.engine = .busy c →
    (∀ off x, HostWrites s off x → OperandOffset s.nmax.val off.toNat →
      step s = .next { afterEvent s with ovr := true }) ∧
    (∀ x, HostWrites s 0x014 x → step s = .next { afterEvent s with
      done := s.done && !x.getLsbD 1, ovr := s.ovr && !x.getLsbD 3 }) ∧
    (∀ x, HostWrites s 0x018 x → step s = .next { afterEvent s with doneIe := x.getLsbD 0 }) ∧
    (∀ off, off.toNat % 4 = 0 → HostHasTurn (.read off 4) s →
      step s = .next { afterEvent s with rdata := hostRead off s })

/-- R63, U3: the port never sees the two low bits of an offset, and a host access that is not one whole word
at a word offset is refused, by its size or by its offset. That a misaligned access of 4 bytes is refused (U3),
where R63 alone sends it to its word, and that both refusals hold while `rst` is high too, is the model's reading
(assumptions 5 and 6). -/
def Obligations.AccessesAreWholeWords : Prop :=
  (∀ (s : State) (off : Offset) (x : Word),
    hostRead off s = hostRead (off &&& 0xFFC) s ∧ hostWrite off x s = hostWrite (off &&& 0xFFC) x s) ∧
  ∀ (s : State) (off : Offset) (n : Nat) (t : Transaction), s.agenda.head? = some (.host t) →
    t = .read off n ∨ (∃ x, t = .write off n x) →
    (n ≠ 4 → step s = .refused .subWordAccess) ∧
    (n = 4 → off.toNat % 4 ≠ 0 → step s = .refused .misalignedAccess) ∧
    (n = 4 → off.toNat % 4 = 0 → ∃ u, step s = .next u)

/-- R63, U3, R180, R103: a step stops only on an access that is not a whole word at a word offset (assumptions 5
and 6); no command, no error and no reset stops the machine. -/
def Obligations.OnlyAccessesThatAreNotOneWordStopTheMachine : Prop :=
  ∀ s : State, (∃ t, step s = .next t) ∨
    (step s = .refused .subWordAccess ∧ ∃ t, s.agenda.head? = some (.host t) ∧ t.size ≠ 4) ∨
    (step s = .refused .misalignedAccess ∧
      ∃ t, s.agenda.head? = some (.host t) ∧ t.size = 4 ∧ t.off.toNat % 4 ≠ 0)

/-- R103: an accepted command completes within the events the environment still has, unless reset
intervenes. -/
def Obligations.AcceptedCommandCompletes : Prop :=
  ∀ (s : State) (c : Word), s.engine = .busy c → s.rst = false → s.hostsKeepToThePort = true →
    (∀ e ∈ s.agenda, e ≠ .rst true) →
    ∃ k t, k ≤ s.agenda.length + 1 ∧ Sys2Proof.core.run k s = .next t ∧ t.engine = .idle

/-! ## The register window -/

/-- R22: every register of the table stands at its offset. -/
def Obligations.RegisterMap : Prop :=
  ∀ n : Nat, n ≤ 7 →
    regAt n 0x000 = .id ∧ regAt n 0x004 = .version ∧ regAt n 0x008 = .param ∧ regAt n 0x00C = .dim ∧
    regAt n 0x010 = .cmd ∧ regAt n 0x014 = .status ∧ regAt n 0x018 = .irqEn ∧ regAt n 0x01C = .errInfo ∧
    regAt n 0x020 = .lastCmd ∧ regAt n 0x024 = .scalarIn ∧ regAt n 0x028 = .scalarOut ∧ regAt n 0x02C = .detRes ∧
    (∀ k : Fin 8, regAt n (offset (0x040 + 4 * k.val)) = .detRaw k) ∧
    (∀ j : Fin 8, j.val < n →
      regAt n (offset (0x200 + 4 * j.val)) = .v j ∧ regAt n (offset (0x280 + 4 * j.val)) = .w j) ∧
    (∀ i j : Fin 8, i.val < n → j.val < n →
      regAt n (offset (0x100 + 0x20 * i.val + 4 * j.val)) = .k i j ∧
      regAt n (offset (0x300 + 0x20 * i.val + 4 * j.val)) = .r i j) ∧
    ∀ off : Offset, ¬ ListedOffset n (wordOffset off) → regAt n off = .reserved

/-- R23, R24, R25: the identification registers, in every state. -/
def Obligations.IdentificationRegistersAreConstant : Prop :=
  ∀ s : State, hostRead 0x000 s = 0x48494C4C ∧ hostRead 0x004 s = 0x00010000 ∧
    (hostRead 0x008 s).extractLsb' 0 4 = BitVec.ofNat 4 s.nmax.val ∧
    1 ≤ ((hostRead 0x008 s).extractLsb' 0 4).toNat ∧ ((hostRead 0x008 s).extractLsb' 0 4).toNat ≤ 7 ∧
    (hostRead 0x008 s).extractLsb' 4 4 = 0 ∧ (hostRead 0x008 s).extractLsb' 8 8 = 0x1A ∧
    (hostRead 0x008 s).extractLsb' 16 16 = 0

/-- R28, R29, R31: the fields of `STATUS`, and the whole effect of a write to it, BUSY or not. -/
def Obligations.StatusFieldsAndWriteOneToClear : Prop :=
  ∀ (s : State) (x : Word),
    (hostRead 0x014 s).getLsbD 0 = s.engine.isBusy ∧ (hostRead 0x014 s).getLsbD 1 = s.done ∧
    (hostRead 0x014 s).getLsbD 2 = decide ((hostRead 0x014 s).extractLsb' 8 4 ≠ 0) ∧
    (hostRead 0x014 s).getLsbD 3 = s.ovr ∧ (hostRead 0x014 s).extractLsb' 4 4 = 0 ∧
    (hostRead 0x014 s).extractLsb' 8 4 = s.errcode.code ∧ (hostRead 0x014 s).extractLsb' 12 20 = 0 ∧
    hostWrite 0x014 x s = { s with done := s.done && !x.getLsbD 1, ovr := s.ovr && !x.getLsbD 3 }

/-- R26, R33, R36, R37, R39, R42: what the host writes to an RW register while the engine is IDLE is
what it reads back, in the fields the register has. -/
def Obligations.WrittenRegistersReadBack : Prop :=
  ∀ (s : State) (x : Word), s.engine = .idle →
    hostRead 0x00C (hostWrite 0x00C x s) = x &&& 0x7 ∧
    hostRead 0x018 (hostWrite 0x018 x s) = x &&& 0x1 ∧
    hostRead 0x024 (hostWrite 0x024 x s) = x ∧
    (∀ i j, i < s.nmax.val → j < s.nmax.val →
      kReg (hostWrite (offset (0x100 + 0x20 * i + 4 * j)) x s) i j = x ∧
      rReg (hostWrite (offset (0x300 + 0x20 * i + 4 * j)) x s) i j = x) ∧
    ∀ j, j < s.nmax.val → vReg (hostWrite (offset (0x200 + 4 * j)) x s) j = x

/-- R65, R70: a write to a register other than `CMD`, made while the engine is IDLE, leaves every byte of
every other word of the window as it was. -/
def Obligations.WritesTouchOneRegister : Prop :=
  ∀ (s : State) (off : Offset) (x : Word), s.engine = .idle → off.toNat / 4 ≠ 4 →
    ∀ a : Offset, a.toNat / 4 ≠ off.toNat / 4 → windowByte a (hostWrite off x s) = windowByte a s

/-- R40, R66: reserved offsets read 0 and ignore writes, BUSY or not. -/
def Obligations.ReservedOffsetsReadZeroAndIgnoreWrites : Prop :=
  ∀ (s : State) (off : Offset) (x : Word), ¬ ListedOffset s.nmax.val (wordOffset off) →
    hostRead off s = 0 ∧ hostWrite off x s = s

/-- R67: writes to read-only registers and fields are ignored, and reserved bits of RW registers read 0. -/
def Obligations.ReadOnlyRegistersIgnoreWrites : Prop :=
  ∀ (s : State) (off : Offset) (x : Word),
    (ReadOnlyOffset s.nmax.val (wordOffset off) → hostWrite off x s = s) ∧
    (hostWrite 0x014 x s).errcode = s.errcode ∧ (hostWrite 0x014 x s).engine = s.engine ∧
    (hostRead 0x00C s).extractLsb' 3 29 = 0 ∧ (hostRead 0x018 s).extractLsb' 1 31 = 0

/-- R60, `BASE`: the window holds each of its 4096 bytes at one system address, wherever the platform
puts it, and no other address. -/
def Obligations.WindowHoldsEachOffsetOnce : Prop :=
  (∀ off : Offset, windowOffset (Config.base + off.toNat) = some off) ∧
  ∀ (a : Nat) (off : Offset), windowOffset a = some off → a = Config.base + off.toNat

/-! ## Flags and the interrupt, over every step -/

/-- R29: `BUSY` becomes 1 at acceptance and 0 at completion or reset, nothing else writes it, and it reads
as 1 exactly when the engine is BUSY. -/
def Obligations.BusyChangesOnlyAtAcceptanceCompletionReset : Prop :=
  ∀ s t : State, step s = .next t →
    ((hostRead 0x014 s).getLsbD 0 = true ↔ s.engine ≠ .idle) ∧
    ((hostRead 0x014 t).getLsbD 0 = true ↔ ¬ ResetActs s ∧
      ((s.engine ≠ .idle ∧ ¬ EngineHasTurn s) ∨
        (s.engine = .idle ∧ ∃ x, HostWrites s 0x010 x)))

/-- R30: `DONE` becomes 1 at every completion, and 0 at acceptance, by a write of its bit, and at reset; the
interrupt comes from it alone. -/
def Obligations.DoneChangesAsListed : Prop :=
  ∀ s t : State, step s = .next t →
    (irq t = true → (hostRead 0x014 t).getLsbD 1 = true) ∧
    ((hostRead 0x014 t).getLsbD 1 = true ↔ ¬ ResetActs s ∧
      ((s.engine ≠ .idle ∧ EngineHasTurn s) ∨
        (s.done = true ∧ ¬ ∃ x, (HostWrites s 0x010 x ∧ s.engine = .idle) ∨
          (HostWrites s 0x014 x ∧ x.getLsbD 1 = true))))

/-- R32: `OVR` rises by a dropped write, falls only by a write of its bit or at reset, and is sticky. -/
def Obligations.OverrunIsSticky : Prop :=
  ∀ s t : State, step s = .next t →
    ((hostRead 0x014 t).getLsbD 3 = true ↔ ¬ ResetActs s ∧
      ((s.ovr = true ∧ ¬ ∃ x, HostWrites s 0x014 x ∧ x.getLsbD 3 = true) ∨
        (s.engine ≠ .idle ∧ ∃ off x, HostWrites s off x ∧
          (off = 0x010 ∨ OperandOffset s.nmax.val off.toNat))))

/-- R35: `LAST_CMD` holds the last accepted word. -/
def Obligations.LastCmdHoldsTheLastAcceptedWord : Prop :=
  ∀ s t : State, step s = .next t →
    (ResetActs s → hostRead 0x020 t = 0) ∧
    (¬ ResetActs s → ∀ c, HostWrites s 0x010 c → s.engine = .idle → hostRead 0x020 t = c) ∧
    (¬ ResetActs s → (¬ ∃ c, HostWrites s 0x010 c ∧ s.engine = .idle) →
      hostRead 0x020 t = hostRead 0x020 s)

/-- R31, R34: `ERRCODE` and `ERR_INFO` are cleared at acceptance and at reset, written by a completion,
and otherwise kept; clearing `DONE` does not change them. -/
def Obligations.ErrcodeIsKeptUntilTheNextAcceptance : Prop :=
  ∀ s t : State, step s = .next t →
    ((ResetActs s ∨ (s.engine = .idle ∧ ∃ x, HostWrites s 0x010 x)) →
      t.errcode = .none ∧ t.errInfo = 0) ∧
    (¬ ResetActs s → ¬ (s.engine = .idle ∧ ∃ x, HostWrites s 0x010 x) →
      ¬ (s.engine ≠ .idle ∧ EngineHasTurn s) → t.errcode = s.errcode ∧ t.errInfo = s.errInfo)

/-- R46, R189: the interrupt follows `DONE` while enabled: every completion raises it, acceptance, a
write of the bit of `DONE` and reset lower it, and masking lowers it without clearing `DONE`. -/
def Obligations.InterruptFollowsDoneWhileEnabled : Prop :=
  ∀ s t : State, irq s = ((hostRead 0x014 s).getLsbD 1 && (hostRead 0x018 s).getLsbD 0) ∧
    (step s = .next t →
      (EngineHasTurn s → s.engine ≠ .idle → irq t = s.doneIe) ∧
      (∀ c, HostWrites s 0x010 c → s.engine = .idle → irq t = false) ∧
      (∀ x, HostWrites s 0x014 x → x.getLsbD 1 = true → irq t = false) ∧
      (∀ x, HostWrites s 0x018 x → x.getLsbD 0 = false → irq t = false ∧ t.done = s.done) ∧
      (ResetActs s → irq t = false))

/-- R73, R102, R41, R214: while a command stays in flight, no step changes an operand register, a result
register, `LAST_CMD` or the word in flight, so the operands at completion are those at acceptance. -/
def Obligations.OperandsAndResultsAreFixedWhileBusy : Prop :=
  ∀ (s t : State) (c d : Word), step s = .next t → s.engine = .busy c → t.engine = .busy d →
    d = c ∧ t.nmax = s.nmax ∧ t.dimN = s.dimN ∧ t.k = s.k ∧ t.v = s.v ∧ t.r = s.r ∧
    t.scalarIn = s.scalarIn ∧ t.lastCmd = s.lastCmd ∧
    t.w = s.w ∧ t.scalarOut = s.scalarOut ∧ t.detRes = s.detRes ∧ t.detRaw = s.detRaw

/-! ## Reset -/

/-- R47, R212: the reset state as the host reads it: the constants at their offsets and 0 everywhere
else, IDLE, with `irq` low. -/
def Obligations.ResetValues : Prop :=
  (∀ off : Offset, hostRead off State.reset =
    if wordOffset off = 0x000 then 0x48494C4C else if wordOffset off = 0x004 then 0x00010000
    else if wordOffset off = 0x008 then 0x00001A06 else 0) ∧
  State.reset.engine = .idle ∧ irq State.reset = false

/-- R210: a rising `rst` resets the block and abandons the command in flight; while it is high the
block stays at its reset values whatever the host does; when it falls the block is IDLE. That a read
then leaves 0 in `rdata` is "reads return 0"; that an event without a read does so too is the model's
choice (assumption 3). -/
def Obligations.RstHoldsTheBlockAtReset : Prop :=
  ∀ s : State,
    (∀ l, s.agenda.head? = some (.rst l) → l = true ∨ s.rst = true → step s = .next
      { State.reset with nmax := s.nmax, agenda := s.agenda.tail, rst := l }) ∧
    (s.rst = true → s.hostsKeepToThePort = true → s.agenda.head? ≠ some (.rst false) → step s = .next
      { State.reset with nmax := s.nmax, agenda := s.agenda.tail, rst := true })

/-- R211: `DIM.N` is 0 after reset, which is illegal, and while it is not legal the matrix commands complete
with InvalidMatrixDimension; from reset CANON gives 0 and MODINV fails with `ERR_INFO = 0`. -/
def Obligations.CommandsBeforeConfiguration : Prop :=
  (∀ s : State, ¬ legalDim s → ∀ i ∈ matrixCommands,
    exec i s = .next (completedError .invalidMatrixDimension (hostRead 0x00C s) s)) ∧
  (∀ s : State, exec .nop s = .next (completed s)) ∧
  (∀ s : State, s.scalarIn = 0 → exec .canon s = .next (completed { s with scalarOut := 0 }) ∧
    exec .modinv s = .next (completedError .noModularInverse 0 s)) ∧
  dimN State.reset = 0 ∧ ¬ legalDim State.reset ∧ State.reset.scalarIn = 0

/-! ## The commands: results -/

/-- R107: NOP completes with no effect on any result register. -/
def Obligations.NopCompletes : Prop :=
  ∀ s : State, exec .nop s = .next { s with engine := .idle, done := true }

/-- R120, R123: CANON writes the residue of the signed word and completes, whatever `DIM.N` is. -/
def Obligations.CanonWritesTheResidue : Prop :=
  ∀ s : State, ∃ t, exec .canon s = .next t ∧
    t = { s with scalarOut := t.scalarOut, engine := .idle, done := true } ∧
    ((hostRead 0x028 t).toNat : Int) = (hostRead 0x024 s).toInt % 26

/-- R124, R126, R110: MULV writes the reduced product of `K_N` and `V_N`, lane by lane, and 0 outside. -/
def Obligations.MulvWritesTheReducedProduct : Prop :=
  ∀ s : State, legalDim s → ∃ t, exec .mulv s = .next t ∧
    t = { s with w := t.w, engine := .idle, done := true } ∧
    ∀ i, i < s.nmax.val → ((wReg t i).toNat : Int) =
      if i < dimN s then
        (∑ j ∈ Finset.range (dimN s), (kReg s i j).toInt * (vReg s j).toInt) % 26
      else 0

/-- R125, R126, R110: MULV.R is the same product with `R_N` for the matrix. -/
def Obligations.MulvRWritesTheReducedProduct : Prop :=
  ∀ s : State, legalDim s → ∃ t, exec .mulvR s = .next t ∧
    t = { s with w := t.w, engine := .idle, done := true } ∧
    ∀ i, i < s.nmax.val → ((wReg t i).toNat : Int) =
      if i < dimN s then
        (∑ j ∈ Finset.range (dimN s), (rReg s i j).toInt * (vReg s j).toInt) % 26
      else 0

/-- R144, R15, R142: DET writes the exact determinant of `K_N` in `DET_RAW` and its residue in `DET_RES`. -/
def Obligations.DetWritesTheExactDeterminant : Prop :=
  ∀ s : State, legalDim s → ∃ t, exec .det s = .next t ∧
    t = { s with detRaw := t.detRaw, detRes := t.detRes, engine := .idle, done := true } ∧
    (∀ k, k < 8 → hostRead (offset (0x040 + 4 * k)) t = t.detRaw.extractLsb' (32 * k) 32) ∧
    t.detRaw.toInt = (kMatrix s (dimN s)).det ∧
    ((hostRead 0x02C t).toNat : Int) = (kMatrix s (dimN s)).det % 26

/-- R145, R146, R110: ADJ writes the reduced adjugate of `K_N`, singular or not, and 0 outside. -/
def Obligations.AdjWritesTheReducedAdjugate : Prop :=
  ∀ s : State, legalDim s → ∃ t, exec .adj s = .next t ∧
    t = { s with r := t.r, engine := .idle, done := true } ∧
    (∀ i j : Fin (dimN s), ((rReg t i.val j.val).toNat : Int) = (kMatrix s (dimN s)).adjugate i j % 26) ∧
    ∀ i j, i < s.nmax.val → j < s.nmax.val → dimN s ≤ i ∨ dimN s ≤ j → rReg t i j = 0

/-- R160, R162, R184: MODINV writes the inverse of the signed word modulo 26 when its residue is coprime
to 26, and otherwise completes with NoModularInverse and the residue. -/
def Obligations.ModinvWritesTheInverseOrFails : Prop :=
  ∀ s : State,
    (Int.gcd ((hostRead 0x024 s).toInt % 26) 26 = 1 → ∃ t, exec .modinv s = .next t ∧
      t = { s with scalarOut := t.scalarOut, engine := .idle, done := true } ∧
      1 ≤ (hostRead 0x028 t).toNat ∧ (hostRead 0x028 t).toNat < 26 ∧
      ((hostRead 0x024 s).toInt * (hostRead 0x028 t).toNat) % 26 = 1) ∧
    (Int.gcd ((hostRead 0x024 s).toInt % 26) 26 ≠ 1 →
      exec .modinv s = .next { s with
        errcode := .noModularInverse, errInfo := BitVec.ofInt 32 ((hostRead 0x024 s).toInt % 26),
        engine := .idle, done := true })

/-- R161: the table of the units of Z/26, and the residues that have no inverse. -/
def Obligations.UnitsOfZ26 : Prop :=
  modularInverse 1 = some 1 ∧ modularInverse 3 = some 9 ∧ modularInverse 5 = some 21 ∧
  modularInverse 7 = some 15 ∧ modularInverse 9 = some 3 ∧ modularInverse 11 = some 19 ∧
  modularInverse 15 = some 7 ∧ modularInverse 17 = some 23 ∧ modularInverse 19 = some 11 ∧
  modularInverse 21 = some 5 ∧ modularInverse 23 = some 17 ∧ modularInverse 25 = some 25 ∧
  ∀ c ∈ [(0 : Int), 2, 4, 6, 8, 10, 12, 13, 14, 16, 18, 20, 22, 24], modularInverse c = none

/-- R163, R164: MATINV writes the inverse of `K_N` when the residue of the determinant is coprime to 26:
each entry is that of the adjugate times the inverse of the determinant, reduced, and 0 outside. -/
def Obligations.MatinvWritesTheInverse : Prop :=
  ∀ s : State, legalDim s → Int.gcd ((kMatrix s (dimN s)).det % 26) 26 = 1 →
    ∃ (t : State) (dInv : Int), exec .matinv s = .next t ∧
      t = { s with r := t.r, engine := .idle, done := true } ∧
      1 ≤ dInv ∧ dInv < 26 ∧ ((kMatrix s (dimN s)).det * dInv) % 26 = 1 ∧
      (∀ i j : Fin (dimN s), ((rReg t i.val j.val).toNat : Int) =
        ((kMatrix s (dimN s)).adjugate i j * dInv) % 26) ∧
      ∀ i j, i < s.nmax.val → j < s.nmax.val → dimN s ≤ i ∨ dimN s ≤ j → rReg t i j = 0

/-- R164, R185, R163: when the residue of the determinant is not coprime to 26, MATINV completes with
NonInvertibleMatrix and that residue, never with NoModularInverse, and writes nothing. -/
def Obligations.MatinvFailsOnANonInvertibleKey : Prop :=
  ∀ s : State, legalDim s → Int.gcd ((kMatrix s (dimN s)).det % 26) 26 ≠ 1 →
    exec .matinv s = .next { s with
      errcode := .nonInvertibleMatrix, errInfo := BitVec.ofInt 32 ((kMatrix s (dimN s)).det % 26),
      engine := .idle, done := true }

/-- R104, R109, R183: an illegal dimension ends a matrix command with InvalidMatrixDimension before any
arithmetic; the other commands never raise it. -/
def Obligations.IllegalDimensionIsReported : Prop :=
  ∀ s : State,
    (¬ legalDim s → ∀ i ∈ matrixCommands, exec i s = .next { s with
      errcode := .invalidMatrixDimension, errInfo := hostRead 0x00C s, engine := .idle, done := true }) ∧
    ∀ i, i ∉ matrixCommands → s.errcode = .none → ∃ t, exec i s = .next t ∧ t.errcode ≠ .invalidMatrixDimension

/-- R187, with the codes and the information of R181: the one error each word in flight reports, the first
that applies. -/
def Obligations.EachCommandReportsTheFirstErrorThatApplies : Prop :=
  ∀ (s : State) (c : Word),
    s.engine = .busy c → EngineHasTurn s → s.errcode = .none → s.errInfo = 0 →
    ∃ t, step s = .next t ∧ ((hostRead 0x014 t).extractLsb' 8 4, hostRead 0x01C t) =
      if c ∉ commandWords then (0x1, c)
      else if c ∈ [0x02, 0x12, 0x03, 0x04, (0x06 : Word)] ∧ ¬ legalDim s then (0x2, hostRead 0x00C s)
      else if c = 0x05 ∧ Int.gcd ((hostRead 0x024 s).toInt % 26) 26 ≠ 1 then
        (0x3, BitVec.ofInt 32 ((hostRead 0x024 s).toInt % 26))
      else if c = 0x06 ∧ Int.gcd ((kMatrix s (dimN s)).det % 26) 26 ≠ 1 then
        (0x4, BitVec.ofInt 32 ((kMatrix s (dimN s)).det % 26))
      else (0x0, 0)

/-! ## The commands: frames -/

/-- R105: a completion with an error writes the error, ends the command and changes nothing else. -/
def Obligations.ErrorsWriteNoResult : Prop :=
  ∀ (i : Instr) (s t : State), s.errcode = .none → exec i s = .next t → t.errcode ≠ .none →
    t = { s with errcode := t.errcode, errInfo := t.errInfo, engine := .idle, done := true } ∧
    WindowSameOutside 0 0 s t

/-- R123, R162: CANON and MODINV change `SCALAR_OUT`, the error and the flags, and nothing else. -/
def Obligations.ScalarCommandsFrame : Prop :=
  ∀ i ∈ [Instr.canon, .modinv], ∀ s t : State, exec i s = .next t →
    t = { s with
      scalarOut := t.scalarOut, errcode := t.errcode, errInfo := t.errInfo, engine := .idle, done := true } ∧
    WindowSameOutside 0x028 0x02C s t

/-- R124, R125: MULV and MULV.R change `W`, the error and the flags, and nothing else. -/
def Obligations.MultiplyCommandsFrame : Prop :=
  ∀ i ∈ [Instr.mulv, .mulvR], ∀ s t : State, exec i s = .next t →
    t = { s with w := t.w, errcode := t.errcode, errInfo := t.errInfo, engine := .idle, done := true } ∧
    WindowSameOutside 0x280 0x2A0 s t

/-- R144, D35: DET changes `DET_RAW`, `DET_RES`, the error and the flags, and nothing else. -/
def Obligations.DetFrame : Prop :=
  ∀ s t : State, exec .det s = .next t →
    t = { s with
      detRaw := t.detRaw, detRes := t.detRes, errcode := t.errcode, errInfo := t.errInfo,
      engine := .idle, done := true } ∧
    ∀ a : Offset, ¬ (0x040 ≤ a.toNat ∧ a.toNat < 0x060) → ¬ (0x02C ≤ a.toNat ∧ a.toNat < 0x030) →
      ¬ (0x014 ≤ a.toNat ∧ a.toNat < 0x018) → ¬ (0x01C ≤ a.toNat ∧ a.toNat < 0x020) →
      windowByte a t = windowByte a s

/-- R146, R164, D35: ADJ and MATINV change `R`, the error and the flags, and nothing else. -/
def Obligations.MatrixResultCommandsFrame : Prop :=
  ∀ i ∈ [Instr.adj, .matinv], ∀ s t : State, exec i s = .next t →
    t = { s with r := t.r, errcode := t.errcode, errInfo := t.errInfo, engine := .idle, done := true } ∧
    WindowSameOutside 0x300 0x400 s t

/-- R107: NOP changes the flags and nothing else. -/
def Obligations.NopFrame : Prop :=
  ∀ s t : State, exec .nop s = .next t →
    t = { s with engine := .idle, done := true } ∧ WindowSameOutside 0 0 s t

/-- R122: the residue results of a successful command lie in `[0, 26)`, whatever the signs of the
operands. -/
def Obligations.ResultsAreResidues : Prop :=
  ∀ (i : Instr) (s t : State), s.errcode = .none → exec i s = .next t → t.errcode = .none →
    (i ∈ [Instr.canon, .modinv] → (hostRead 0x028 t).toNat < 26) ∧
    (i = .det → (hostRead 0x02C t).toNat < 26) ∧
    (i ∈ [Instr.mulv, .mulvR] → ∀ j, j < s.nmax.val → (wReg t j).toNat < 26) ∧
    (i ∈ [Instr.adj, .matinv] → ∀ j k, j < s.nmax.val → k < s.nmax.val → (rReg t j k).toNat < 26)

/-- R106, R36, R37: the outcome depends on `DIM.N`, `NMAX` and the operands the command reads inside
`N×N`, and on nothing else: not on other elements, old results, flags or hidden state. -/
def Obligations.OutcomeDependsOnlyOnTheOperandsRead : Prop :=
  ∀ (i : Instr) (s s' t t' : State),
    s.errcode = .none → s.errInfo = 0 → s'.errcode = .none → s'.errInfo = 0 → s'.nmax = s.nmax →
    (i ∈ matrixCommands → s'.dimN = s.dimN) →
    (i ∈ [Instr.canon, .modinv] → s'.scalarIn = s.scalarIn) →
    (i ∈ [Instr.mulv, .det, .adj, .matinv] → ∀ a b, a < dimN s → b < dimN s →
      matEntry s'.k a b = matEntry s.k a b) →
    (i = .mulvR → ∀ a b, a < dimN s → b < dimN s → matEntry s'.r a b = matEntry s.r a b) →
    (i ∈ [Instr.mulv, .mulvR] → ∀ a, a < dimN s → vecEntry s'.v a = vecEntry s.v a) →
    exec i s = .next t → exec i s' = .next t' →
    t'.errcode = t.errcode ∧ t'.errInfo = t.errInfo ∧
    (t.errcode = .none →
      (i ∈ [Instr.canon, .modinv] → t'.scalarOut = t.scalarOut) ∧
      (i = .det → t'.detRaw = t.detRaw ∧ t'.detRes = t.detRes) ∧
      (i ∈ [Instr.mulv, .mulvR] → t'.w = t.w) ∧
      (i ∈ [Instr.adj, .matinv] → t'.r = t.r))

/-! ## The arithmetic -/

/-- R120: both readings of the source's `mod` give the same residue, the Euclidean remainder. -/
def Obligations.CanonIsTheSameUnderBothReadings : Prop :=
  ∀ x : Int, canon x = x % 26 ∧ canon x = ((x.tmod 26) + 26).tmod 26 ∧ 0 ≤ canon x ∧ canon x < 26

/-- R121: `canon` may be applied early to the terms of sums and products. -/
def Obligations.CanonMayBeAppliedEarly : Prop :=
  ∀ a b : Int, canon (a + b) = canon (canon a + canon b) ∧ canon (a * b) = canon (canon a * canon b)

/-- R141, R142: the Laplace expansion along row 0 gives the determinant of the matrix. -/
def Obligations.LaplaceExpansionIsTheDeterminant : Prop :=
  ∀ (n : Nat) (m : IntMat), 1 ≤ n → determinant n m = (Matrix.of fun i j : Fin n => m i.val j.val).det

/-- R143: the determinant of a matrix of 32-bit signed integers of size at most 7 lies strictly inside
`(-2^255, 2^255)`. -/
def Obligations.DeterminantFitsIn256Bits : Prop :=
  ∀ (n : Nat) (m : IntMat), 1 ≤ n → n ≤ 7 →
    (∀ i j, i < n → j < n → -2 ^ 31 ≤ m i j ∧ m i j ≤ 2 ^ 31 - 1) →
    -2 ^ 255 < determinant n m ∧ determinant n m < 2 ^ 255

/-- R147: the adjugate times the matrix, in either order, is the determinant times the identity, modulo
26. -/
def Obligations.CofactorIdentity : Prop :=
  ∀ (n : Nat) (m : IntMat), 1 ≤ n → ∀ i j, i < n → j < n →
    canon (∑ k ∈ Finset.range n, adjoint n m i k * m k j) =
      (if i = j then canon (determinant n m) else 0) ∧
    canon (∑ k ∈ Finset.range n, m i k * adjoint n m k j) =
      (if i = j then canon (determinant n m) else 0)

/-- R165: after a MATINV without error, the product of `K_N` and `R_N`, in both orders and reduced, is
the identity. -/
def Obligations.InverseIdentity : Prop :=
  ∀ s t : State, s.errcode = .none → exec .matinv s = .next t → t.errcode = .none →
    ∀ i j, i < dimN t → j < dimN t →
      (∑ k ∈ Finset.range (dimN t), (kReg t i k).toInt * (rReg t k j).toInt) % 26 = (if i = j then 1 else 0) ∧
      (∑ k ∈ Finset.range (dimN t), (rReg t i k).toInt * (kReg t k j).toInt) % 26 = (if i = j then 1 else 0)

/-- R166: MULV, copying `W` into `V`, then MULV.R with the inverse that MATINV left in `R` gives back the
vector when it holds residues, and its residues otherwise. -/
def Obligations.EncryptDecryptRoundTrip : Prop :=
  ∀ s t u x : State, s.errcode = .none → exec .matinv s = .next t → t.errcode = .none →
    exec .mulv t = .next u →
    exec .mulvR ((List.range (dimN u)).foldl
      (fun y j => hostWrite (offset (0x200 + 4 * j)) (wReg u j) y) u) = .next x →
    ∀ i, i < dimN s →
      ((wReg x i).toNat : Int) = (vReg s i).toInt % 26 ∧
      ((vReg s i).toNat < 26 → wReg x i = vReg s i)

/-! ## The invariant -/

/-- The invariant holds after reset (R47). -/
def Obligations.ResetSatisfiesTheInvariant : Prop := State.reset.Inv

/-- Every step keeps the invariant: reserved slots stay empty (R40), engine-written residues stay below
26 (R122), acceptance's values stand while BUSY (R100), `ERR_INFO` and `LAST_CMD` explain `ERRCODE`
(R181, R190), and `rst` holds the block at reset (R210). -/
def Obligations.EveryStepKeepsTheInvariant : Prop :=
  ∀ s t : State, s.Inv → step s = .next t → t.Inv
end

