-- ==== Sys2Proof/Laws/Files.lean ====
section
/-! SUPPORT. The register files: what an element of a built, updated, zeroed or zero-filled file is. -/

namespace Sys2Proof.Machine

theorem vecEntry_of_lt {w : Nat} (f : VecFile w) {j : Nat} (h : j < 8) : vecEntry f j = f[j] := by
  simp [vecEntry, h]

theorem vecEntry_vecOf {w : Nat} (f : Nat → BitVec w) {j : Nat} (h : j < 8) : vecEntry (vecOf f) j = f j := by
  rw [vecEntry_of_lt _ h]; simp [vecOf]

theorem matEntry_of_lt (m : MatFile) {i : Nat} (h : i < 8) (j : Nat) : matEntry m i j = vecEntry m[i] j := by
  simp [matEntry, h]

theorem matEntry_matOf (f : Nat → Nat → Word) {i j : Nat} (hi : i < 8) (hj : j < 8) :
    matEntry (matOf f) i j = f i j := by
  rw [matEntry_of_lt _ hi]; simp [matOf, vecEntry_vecOf _ hj]

@[simp] theorem vecEntry_vecSet_same {w : Nat} (f : VecFile w) (j : Fin 8) (x : BitVec w) :
    vecEntry (vecSet f j x) j.val = x := by
  rw [vecEntry_of_lt _ j.isLt]; simp [vecSet]

theorem vecEntry_vecSet_ne {w : Nat} (f : VecFile w) (j : Fin 8) (x : BitVec w) {i : Nat} (h : i ≠ j.val) :
    vecEntry (vecSet f j x) i = vecEntry f i := by
  simp [vecEntry, vecSet, Vector.getElem?_set_ne, h.symm]

@[simp] theorem matEntry_matSet_same (m : MatFile) (i j : Fin 8) (x : Word) :
    matEntry (matSet m i j x) i.val j.val = x := by
  rw [matEntry_of_lt _ i.isLt]; simp [matSet]

theorem matEntry_matSet_ne (m : MatFile) (i j : Fin 8) (x : Word) {a b : Nat} (h : a ≠ i.val ∨ b ≠ j.val) :
    matEntry (matSet m i j x) a b = matEntry m a b := by
  by_cases ha : a = i.val
  · subst ha
    rw [matEntry_of_lt _ i.isLt, matEntry_of_lt _ i.isLt]
    simp only [matSet, Vector.getElem_set_self]
    exact vecEntry_vecSet_ne _ _ _ (h.resolve_left (by simp))
  · simp [matEntry, matSet, Vector.getElem?_set_ne, Ne.symm ha]

@[simp] theorem vecEntry_zeroVec (w j : Nat) : vecEntry (zeroVec w) j = 0 := by
  by_cases h : j < 8
  · rw [vecEntry_of_lt _ h]; simp [zeroVec]
  · simp [vecEntry, h]

@[simp] theorem matEntry_zeroMat (i j : Nat) : matEntry zeroMat i j = 0 := by
  by_cases h : i < 8
  · rw [matEntry_of_lt _ h]; simp [zeroMat]
  · simp [matEntry, h]

theorem vecEntry_zeroFilledVec (n : Nat) (f : IntVec) {i : Nat} (h : i < 8) :
    vecEntry (zeroFilledVec n f) i = if i < n then residue5 (f i) else 0 :=
  vecEntry_vecOf _ h

theorem matEntry_zeroFilledMat (n : Nat) (f : IntMat) {i j : Nat} (hi : i < 8) (hj : j < 8) :
    matEntry (zeroFilledMat n f) i j = if i < n ∧ j < n then residue32 (f i j) else 0 :=
  matEntry_matOf _ hi hj

/-- Files whose elements agree are equal. -/
theorem vecOf_congr {w : Nat} {f g : Nat → BitVec w} (h : ∀ j, j < 8 → f j = g j) : vecOf f = vecOf g := by
  simp only [vecOf]; congr 1; funext j; exact h j.val j.isLt

theorem zeroFilledVec_congr {n : Nat} {f g : IntVec} (h : ∀ i, i < n → f i = g i) :
    zeroFilledVec n f = zeroFilledVec n g :=
  vecOf_congr fun i _ => by by_cases hi : i < n <;> simp [hi, h]

theorem zeroFilledMat_congr {n : Nat} {f g : IntMat} (h : ∀ i j, i < n → j < n → f i j = g i j) :
    zeroFilledMat n f = zeroFilledMat n g := by
  simp only [zeroFilledMat, matOf]; congr 1; funext i
  exact vecOf_congr fun j _ => by by_cases hi : i.val < n ∧ j < n <;> simp [hi, h]

/-- The dimension is a 3-bit value. -/
theorem dimension_le (s : State) : dimension s ≤ 7 := by
  have := s.dimN.isLt; simp only [dimension]; omega

theorem residue5_toNat {x : Int} (h0 : 0 ≤ x) (h : x < 26) : ((residue5 x).toNat : Int) = x := by
  simp only [residue5, BitVec.toNat_ofInt]; omega

theorem residue32_toNat {x : Int} (h0 : 0 ≤ x) (h : x < 26) : ((residue32 x).toNat : Int) = x := by
  simp only [residue32, BitVec.toNat_ofInt]; omega

theorem residue32_toInt {x : Int} (h0 : 0 ≤ x) (h : x < 26) : (residue32 x).toInt = x := by
  simp only [residue32, BitVec.toInt_ofInt, Int.bmod_def]; omega

@[simp] theorem zext32_toNat (x : BitVec 5) : (zext32 x).toNat = x.toNat := by
  have := x.isLt; simp only [zext32, BitVec.toNat_setWidth]; omega

end Sys2Proof.Machine
end

