-- ==== Sys2Proof/Laws/State.lean ====
section
/-! SUPPORT. What each state update does to each field: one lemma per field per update. -/

namespace Sys2Proof.Machine

/-! ## acceptCommand -/

@[simp] theorem acceptCommand_nmax (c : Word) (s : State) : (acceptCommand c s).nmax = s.nmax := rfl
@[simp] theorem acceptCommand_dimN (c : Word) (s : State) : (acceptCommand c s).dimN = s.dimN := rfl
@[simp] theorem acceptCommand_done (c : Word) (s : State) : (acceptCommand c s).done = false := rfl
@[simp] theorem acceptCommand_ovr (c : Word) (s : State) : (acceptCommand c s).ovr = s.ovr := rfl
@[simp] theorem acceptCommand_errcode (c : Word) (s : State) : (acceptCommand c s).errcode = .none := rfl
@[simp] theorem acceptCommand_doneIe (c : Word) (s : State) : (acceptCommand c s).doneIe = s.doneIe := rfl
@[simp] theorem acceptCommand_errInfo (c : Word) (s : State) : (acceptCommand c s).errInfo = 0 := rfl
@[simp] theorem acceptCommand_lastCmd (c : Word) (s : State) : (acceptCommand c s).lastCmd = c := rfl
@[simp] theorem acceptCommand_scalarIn (c : Word) (s : State) : (acceptCommand c s).scalarIn = s.scalarIn := rfl
@[simp] theorem acceptCommand_scalarOut (c : Word) (s : State) : (acceptCommand c s).scalarOut = s.scalarOut := rfl
@[simp] theorem acceptCommand_detRes (c : Word) (s : State) : (acceptCommand c s).detRes = s.detRes := rfl
@[simp] theorem acceptCommand_detRaw (c : Word) (s : State) : (acceptCommand c s).detRaw = s.detRaw := rfl
@[simp] theorem acceptCommand_k (c : Word) (s : State) : (acceptCommand c s).k = s.k := rfl
@[simp] theorem acceptCommand_v (c : Word) (s : State) : (acceptCommand c s).v = s.v := rfl
@[simp] theorem acceptCommand_w (c : Word) (s : State) : (acceptCommand c s).w = s.w := rfl
@[simp] theorem acceptCommand_r (c : Word) (s : State) : (acceptCommand c s).r = s.r := rfl
@[simp] theorem acceptCommand_engine (c : Word) (s : State) : (acceptCommand c s).engine = .busy c := rfl
@[simp] theorem acceptCommand_rst (c : Word) (s : State) : (acceptCommand c s).rst = s.rst := rfl
@[simp] theorem acceptCommand_rdata (c : Word) (s : State) : (acceptCommand c s).rdata = s.rdata := rfl
@[simp] theorem acceptCommand_agenda (c : Word) (s : State) : (acceptCommand c s).agenda = s.agenda := rfl

/-! ## overrun -/

@[simp] theorem overrun_nmax (s : State) : (overrun s).nmax = s.nmax := rfl
@[simp] theorem overrun_dimN (s : State) : (overrun s).dimN = s.dimN := rfl
@[simp] theorem overrun_done (s : State) : (overrun s).done = s.done := rfl
@[simp] theorem overrun_ovr (s : State) : (overrun s).ovr = true := rfl
@[simp] theorem overrun_errcode (s : State) : (overrun s).errcode = s.errcode := rfl
@[simp] theorem overrun_doneIe (s : State) : (overrun s).doneIe = s.doneIe := rfl
@[simp] theorem overrun_errInfo (s : State) : (overrun s).errInfo = s.errInfo := rfl
@[simp] theorem overrun_lastCmd (s : State) : (overrun s).lastCmd = s.lastCmd := rfl
@[simp] theorem overrun_scalarIn (s : State) : (overrun s).scalarIn = s.scalarIn := rfl
@[simp] theorem overrun_scalarOut (s : State) : (overrun s).scalarOut = s.scalarOut := rfl
@[simp] theorem overrun_detRes (s : State) : (overrun s).detRes = s.detRes := rfl
@[simp] theorem overrun_detRaw (s : State) : (overrun s).detRaw = s.detRaw := rfl
@[simp] theorem overrun_k (s : State) : (overrun s).k = s.k := rfl
@[simp] theorem overrun_v (s : State) : (overrun s).v = s.v := rfl
@[simp] theorem overrun_w (s : State) : (overrun s).w = s.w := rfl
@[simp] theorem overrun_r (s : State) : (overrun s).r = s.r := rfl
@[simp] theorem overrun_engine (s : State) : (overrun s).engine = s.engine := rfl
@[simp] theorem overrun_rst (s : State) : (overrun s).rst = s.rst := rfl
@[simp] theorem overrun_rdata (s : State) : (overrun s).rdata = s.rdata := rfl
@[simp] theorem overrun_agenda (s : State) : (overrun s).agenda = s.agenda := rfl

/-! ## raiseError -/

@[simp] theorem raiseError_nmax (code : ErrCode) (info : Word) (s : State) : (raiseError code info s).nmax = s.nmax := rfl
@[simp] theorem raiseError_dimN (code : ErrCode) (info : Word) (s : State) : (raiseError code info s).dimN = s.dimN := rfl
@[simp] theorem raiseError_done (code : ErrCode) (info : Word) (s : State) : (raiseError code info s).done = s.done := rfl
@[simp] theorem raiseError_ovr (code : ErrCode) (info : Word) (s : State) : (raiseError code info s).ovr = s.ovr := rfl
@[simp] theorem raiseError_errcode (code : ErrCode) (info : Word) (s : State) : (raiseError code info s).errcode = code := rfl
@[simp] theorem raiseError_doneIe (code : ErrCode) (info : Word) (s : State) : (raiseError code info s).doneIe = s.doneIe := rfl
@[simp] theorem raiseError_errInfo (code : ErrCode) (info : Word) (s : State) : (raiseError code info s).errInfo = info := rfl
@[simp] theorem raiseError_lastCmd (code : ErrCode) (info : Word) (s : State) : (raiseError code info s).lastCmd = s.lastCmd := rfl
@[simp] theorem raiseError_scalarIn (code : ErrCode) (info : Word) (s : State) : (raiseError code info s).scalarIn = s.scalarIn := rfl
@[simp] theorem raiseError_scalarOut (code : ErrCode) (info : Word) (s : State) : (raiseError code info s).scalarOut = s.scalarOut := rfl
@[simp] theorem raiseError_detRes (code : ErrCode) (info : Word) (s : State) : (raiseError code info s).detRes = s.detRes := rfl
@[simp] theorem raiseError_detRaw (code : ErrCode) (info : Word) (s : State) : (raiseError code info s).detRaw = s.detRaw := rfl
@[simp] theorem raiseError_k (code : ErrCode) (info : Word) (s : State) : (raiseError code info s).k = s.k := rfl
@[simp] theorem raiseError_v (code : ErrCode) (info : Word) (s : State) : (raiseError code info s).v = s.v := rfl
@[simp] theorem raiseError_w (code : ErrCode) (info : Word) (s : State) : (raiseError code info s).w = s.w := rfl
@[simp] theorem raiseError_r (code : ErrCode) (info : Word) (s : State) : (raiseError code info s).r = s.r := rfl
@[simp] theorem raiseError_engine (code : ErrCode) (info : Word) (s : State) : (raiseError code info s).engine = s.engine := rfl
@[simp] theorem raiseError_rst (code : ErrCode) (info : Word) (s : State) : (raiseError code info s).rst = s.rst := rfl
@[simp] theorem raiseError_rdata (code : ErrCode) (info : Word) (s : State) : (raiseError code info s).rdata = s.rdata := rfl
@[simp] theorem raiseError_agenda (code : ErrCode) (info : Word) (s : State) : (raiseError code info s).agenda = s.agenda := rfl

/-! ## finish -/

@[simp] theorem finish_nmax (s : State) : (finish s).nmax = s.nmax := rfl
@[simp] theorem finish_dimN (s : State) : (finish s).dimN = s.dimN := rfl
@[simp] theorem finish_done (s : State) : (finish s).done = true := rfl
@[simp] theorem finish_ovr (s : State) : (finish s).ovr = s.ovr := rfl
@[simp] theorem finish_errcode (s : State) : (finish s).errcode = s.errcode := rfl
@[simp] theorem finish_doneIe (s : State) : (finish s).doneIe = s.doneIe := rfl
@[simp] theorem finish_errInfo (s : State) : (finish s).errInfo = s.errInfo := rfl
@[simp] theorem finish_lastCmd (s : State) : (finish s).lastCmd = s.lastCmd := rfl
@[simp] theorem finish_scalarIn (s : State) : (finish s).scalarIn = s.scalarIn := rfl
@[simp] theorem finish_scalarOut (s : State) : (finish s).scalarOut = s.scalarOut := rfl
@[simp] theorem finish_detRes (s : State) : (finish s).detRes = s.detRes := rfl
@[simp] theorem finish_detRaw (s : State) : (finish s).detRaw = s.detRaw := rfl
@[simp] theorem finish_k (s : State) : (finish s).k = s.k := rfl
@[simp] theorem finish_v (s : State) : (finish s).v = s.v := rfl
@[simp] theorem finish_w (s : State) : (finish s).w = s.w := rfl
@[simp] theorem finish_r (s : State) : (finish s).r = s.r := rfl
@[simp] theorem finish_engine (s : State) : (finish s).engine = .idle := rfl
@[simp] theorem finish_rst (s : State) : (finish s).rst = s.rst := rfl
@[simp] theorem finish_rdata (s : State) : (finish s).rdata = s.rdata := rfl
@[simp] theorem finish_agenda (s : State) : (finish s).agenda = s.agenda := rfl

/-! ## writeStatus -/

@[simp] theorem writeStatus_nmax (x : Word) (s : State) : (writeStatus x s).nmax = s.nmax := rfl
@[simp] theorem writeStatus_dimN (x : Word) (s : State) : (writeStatus x s).dimN = s.dimN := rfl
@[simp] theorem writeStatus_done (x : Word) (s : State) : (writeStatus x s).done = (s.done && !x.getLsbD 1) := rfl
@[simp] theorem writeStatus_ovr (x : Word) (s : State) : (writeStatus x s).ovr = (s.ovr && !x.getLsbD 3) := rfl
@[simp] theorem writeStatus_errcode (x : Word) (s : State) : (writeStatus x s).errcode = s.errcode := rfl
@[simp] theorem writeStatus_doneIe (x : Word) (s : State) : (writeStatus x s).doneIe = s.doneIe := rfl
@[simp] theorem writeStatus_errInfo (x : Word) (s : State) : (writeStatus x s).errInfo = s.errInfo := rfl
@[simp] theorem writeStatus_lastCmd (x : Word) (s : State) : (writeStatus x s).lastCmd = s.lastCmd := rfl
@[simp] theorem writeStatus_scalarIn (x : Word) (s : State) : (writeStatus x s).scalarIn = s.scalarIn := rfl
@[simp] theorem writeStatus_scalarOut (x : Word) (s : State) : (writeStatus x s).scalarOut = s.scalarOut := rfl
@[simp] theorem writeStatus_detRes (x : Word) (s : State) : (writeStatus x s).detRes = s.detRes := rfl
@[simp] theorem writeStatus_detRaw (x : Word) (s : State) : (writeStatus x s).detRaw = s.detRaw := rfl
@[simp] theorem writeStatus_k (x : Word) (s : State) : (writeStatus x s).k = s.k := rfl
@[simp] theorem writeStatus_v (x : Word) (s : State) : (writeStatus x s).v = s.v := rfl
@[simp] theorem writeStatus_w (x : Word) (s : State) : (writeStatus x s).w = s.w := rfl
@[simp] theorem writeStatus_r (x : Word) (s : State) : (writeStatus x s).r = s.r := rfl
@[simp] theorem writeStatus_engine (x : Word) (s : State) : (writeStatus x s).engine = s.engine := rfl
@[simp] theorem writeStatus_rst (x : Word) (s : State) : (writeStatus x s).rst = s.rst := rfl
@[simp] theorem writeStatus_rdata (x : Word) (s : State) : (writeStatus x s).rdata = s.rdata := rfl
@[simp] theorem writeStatus_agenda (x : Word) (s : State) : (writeStatus x s).agenda = s.agenda := rfl

/-! ## withAgenda -/

@[simp] theorem withAgenda_nmax (l : List Event) (s : State) : (withAgenda l s).nmax = s.nmax := rfl
@[simp] theorem withAgenda_dimN (l : List Event) (s : State) : (withAgenda l s).dimN = s.dimN := rfl
@[simp] theorem withAgenda_done (l : List Event) (s : State) : (withAgenda l s).done = s.done := rfl
@[simp] theorem withAgenda_ovr (l : List Event) (s : State) : (withAgenda l s).ovr = s.ovr := rfl
@[simp] theorem withAgenda_errcode (l : List Event) (s : State) : (withAgenda l s).errcode = s.errcode := rfl
@[simp] theorem withAgenda_doneIe (l : List Event) (s : State) : (withAgenda l s).doneIe = s.doneIe := rfl
@[simp] theorem withAgenda_errInfo (l : List Event) (s : State) : (withAgenda l s).errInfo = s.errInfo := rfl
@[simp] theorem withAgenda_lastCmd (l : List Event) (s : State) : (withAgenda l s).lastCmd = s.lastCmd := rfl
@[simp] theorem withAgenda_scalarIn (l : List Event) (s : State) : (withAgenda l s).scalarIn = s.scalarIn := rfl
@[simp] theorem withAgenda_scalarOut (l : List Event) (s : State) : (withAgenda l s).scalarOut = s.scalarOut := rfl
@[simp] theorem withAgenda_detRes (l : List Event) (s : State) : (withAgenda l s).detRes = s.detRes := rfl
@[simp] theorem withAgenda_detRaw (l : List Event) (s : State) : (withAgenda l s).detRaw = s.detRaw := rfl
@[simp] theorem withAgenda_k (l : List Event) (s : State) : (withAgenda l s).k = s.k := rfl
@[simp] theorem withAgenda_v (l : List Event) (s : State) : (withAgenda l s).v = s.v := rfl
@[simp] theorem withAgenda_w (l : List Event) (s : State) : (withAgenda l s).w = s.w := rfl
@[simp] theorem withAgenda_r (l : List Event) (s : State) : (withAgenda l s).r = s.r := rfl
@[simp] theorem withAgenda_engine (l : List Event) (s : State) : (withAgenda l s).engine = s.engine := rfl
@[simp] theorem withAgenda_rst (l : List Event) (s : State) : (withAgenda l s).rst = s.rst := rfl
@[simp] theorem withAgenda_rdata (l : List Event) (s : State) : (withAgenda l s).rdata = s.rdata := rfl
@[simp] theorem withAgenda_agenda (l : List Event) (s : State) : (withAgenda l s).agenda = l := rfl

/-! ## resetBlock -/

@[simp] theorem resetBlock_nmax (level : Bool) (s : State) : (resetBlock level s).nmax = s.nmax := rfl
@[simp] theorem resetBlock_dimN (level : Bool) (s : State) : (resetBlock level s).dimN = State.reset.dimN := rfl
@[simp] theorem resetBlock_done (level : Bool) (s : State) : (resetBlock level s).done = State.reset.done := rfl
@[simp] theorem resetBlock_ovr (level : Bool) (s : State) : (resetBlock level s).ovr = State.reset.ovr := rfl
@[simp] theorem resetBlock_errcode (level : Bool) (s : State) : (resetBlock level s).errcode = State.reset.errcode := rfl
@[simp] theorem resetBlock_doneIe (level : Bool) (s : State) : (resetBlock level s).doneIe = State.reset.doneIe := rfl
@[simp] theorem resetBlock_errInfo (level : Bool) (s : State) : (resetBlock level s).errInfo = State.reset.errInfo := rfl
@[simp] theorem resetBlock_lastCmd (level : Bool) (s : State) : (resetBlock level s).lastCmd = State.reset.lastCmd := rfl
@[simp] theorem resetBlock_scalarIn (level : Bool) (s : State) : (resetBlock level s).scalarIn = State.reset.scalarIn := rfl
@[simp] theorem resetBlock_scalarOut (level : Bool) (s : State) : (resetBlock level s).scalarOut = State.reset.scalarOut := rfl
@[simp] theorem resetBlock_detRes (level : Bool) (s : State) : (resetBlock level s).detRes = State.reset.detRes := rfl
@[simp] theorem resetBlock_detRaw (level : Bool) (s : State) : (resetBlock level s).detRaw = State.reset.detRaw := rfl
@[simp] theorem resetBlock_k (level : Bool) (s : State) : (resetBlock level s).k = State.reset.k := rfl
@[simp] theorem resetBlock_v (level : Bool) (s : State) : (resetBlock level s).v = State.reset.v := rfl
@[simp] theorem resetBlock_w (level : Bool) (s : State) : (resetBlock level s).w = State.reset.w := rfl
@[simp] theorem resetBlock_r (level : Bool) (s : State) : (resetBlock level s).r = State.reset.r := rfl
@[simp] theorem resetBlock_engine (level : Bool) (s : State) : (resetBlock level s).engine = State.reset.engine := rfl
@[simp] theorem resetBlock_rst (level : Bool) (s : State) : (resetBlock level s).rst = level := rfl
@[simp] theorem resetBlock_rdata (level : Bool) (s : State) : (resetBlock level s).rdata = State.reset.rdata := rfl
@[simp] theorem resetBlock_agenda (level : Bool) (s : State) : (resetBlock level s).agenda = s.agenda := rfl

/-! ## performWrites: the fields no command writes -/

@[simp] theorem performWrites_nmax (x : ResultWrites) (s : State) : (performWrites x s).nmax = s.nmax := by
  cases x <;> rfl
@[simp] theorem performWrites_dimN (x : ResultWrites) (s : State) : (performWrites x s).dimN = s.dimN := by
  cases x <;> rfl
@[simp] theorem performWrites_done (x : ResultWrites) (s : State) : (performWrites x s).done = s.done := by
  cases x <;> rfl
@[simp] theorem performWrites_ovr (x : ResultWrites) (s : State) : (performWrites x s).ovr = s.ovr := by
  cases x <;> rfl
@[simp] theorem performWrites_errcode (x : ResultWrites) (s : State) : (performWrites x s).errcode = s.errcode := by
  cases x <;> rfl
@[simp] theorem performWrites_doneIe (x : ResultWrites) (s : State) : (performWrites x s).doneIe = s.doneIe := by
  cases x <;> rfl
@[simp] theorem performWrites_errInfo (x : ResultWrites) (s : State) : (performWrites x s).errInfo = s.errInfo := by
  cases x <;> rfl
@[simp] theorem performWrites_lastCmd (x : ResultWrites) (s : State) : (performWrites x s).lastCmd = s.lastCmd := by
  cases x <;> rfl
@[simp] theorem performWrites_scalarIn (x : ResultWrites) (s : State) : (performWrites x s).scalarIn = s.scalarIn := by
  cases x <;> rfl
@[simp] theorem performWrites_k (x : ResultWrites) (s : State) : (performWrites x s).k = s.k := by
  cases x <;> rfl
@[simp] theorem performWrites_v (x : ResultWrites) (s : State) : (performWrites x s).v = s.v := by
  cases x <;> rfl
@[simp] theorem performWrites_engine (x : ResultWrites) (s : State) : (performWrites x s).engine = s.engine := by
  cases x <;> rfl
@[simp] theorem performWrites_rst (x : ResultWrites) (s : State) : (performWrites x s).rst = s.rst := by
  cases x <;> rfl
@[simp] theorem performWrites_rdata (x : ResultWrites) (s : State) : (performWrites x s).rdata = s.rdata := by
  cases x <;> rfl
@[simp] theorem performWrites_agenda (x : ResultWrites) (s : State) : (performWrites x s).agenda = s.agenda := by
  cases x <;> rfl

/-! ## complete: the fields no completion writes, and those every completion writes -/

@[simp] theorem complete_nmax (o : CmdOutcome) (s : State) : (complete o s).nmax = s.nmax := by
  cases o <;> simp [complete]
@[simp] theorem complete_dimN (o : CmdOutcome) (s : State) : (complete o s).dimN = s.dimN := by
  cases o <;> simp [complete]
@[simp] theorem complete_done (o : CmdOutcome) (s : State) : (complete o s).done = true := by
  cases o <;> rfl
@[simp] theorem complete_ovr (o : CmdOutcome) (s : State) : (complete o s).ovr = s.ovr := by
  cases o <;> simp [complete]
@[simp] theorem complete_doneIe (o : CmdOutcome) (s : State) : (complete o s).doneIe = s.doneIe := by
  cases o <;> simp [complete]
@[simp] theorem complete_lastCmd (o : CmdOutcome) (s : State) : (complete o s).lastCmd = s.lastCmd := by
  cases o <;> simp [complete]
@[simp] theorem complete_scalarIn (o : CmdOutcome) (s : State) : (complete o s).scalarIn = s.scalarIn := by
  cases o <;> simp [complete]
@[simp] theorem complete_k (o : CmdOutcome) (s : State) : (complete o s).k = s.k := by
  cases o <;> simp [complete]
@[simp] theorem complete_v (o : CmdOutcome) (s : State) : (complete o s).v = s.v := by
  cases o <;> simp [complete]
@[simp] theorem complete_engine (o : CmdOutcome) (s : State) : (complete o s).engine = .idle := by
  cases o <;> rfl
@[simp] theorem complete_rst (o : CmdOutcome) (s : State) : (complete o s).rst = s.rst := by
  cases o <;> simp [complete]
@[simp] theorem complete_rdata (o : CmdOutcome) (s : State) : (complete o s).rdata = s.rdata := by
  cases o <;> simp [complete]
@[simp] theorem complete_agenda (o : CmdOutcome) (s : State) : (complete o s).agenda = s.agenda := by
  cases o <;> simp [complete]

end Sys2Proof.Machine
end

