-- ==== Sys2Proof/Laws/Units.lean ====
section
/-! SUPPORT. One spec lemma for each function of the arithmetic units. -/

namespace Sys2Proof.Machine

/-- The exact sum is Mathlib's sum over a range. -/
theorem sumTo_eq_sum (n : Nat) (f : IntVec) : sumTo n f = ∑ j ∈ Finset.range n, f j := by
  induction n with
  | zero => rfl
  | succ n ih => rw [Finset.sum_range_succ, ← ih]; rfl

theorem sumTo_congr {n : Nat} {f g : IntVec} (h : ∀ j, j < n → f j = g j) : sumTo n f = sumTo n g := by
  rw [sumTo_eq_sum, sumTo_eq_sum]
  exact Finset.sum_congr rfl fun j hj => h j (Finset.mem_range.mp hj)

theorem canon_nonneg (x : Int) : 0 ≤ canon x := by simp only [canon]; omega

theorem canon_lt (x : Int) : canon x < 26 := by simp only [canon]; omega

theorem canon_eq_emod (x : Int) : canon x = x % 26 := by simp only [canon]; omega

theorem multiplyMatrixVector_congr {n : Nat} {m m' : IntMat} {v v' : IntVec} (hm : ∀ i j, i < n → j < n → m i j = m' i j)
    (hv : ∀ j, j < n → v j = v' j) {i : Nat} (hi : i < n) :
    multiplyMatrixVector n m v i = multiplyMatrixVector n m' v' i := by
  simp only [multiplyMatrixVector, rowSum]
  rw [sumTo_congr fun j hj => by rw [hm i j hi hj, hv j hj]]

@[simp] theorem determinant_one (m : IntMat) : determinant 1 m = m 0 0 := rfl

theorem determinant_succ_succ (n : Nat) (m : IntMat) :
    determinant (n + 2) m = sumTo (n + 2) fun f => cofactorSign 0 f * m 0 f * determinant (n + 1) (minor m 0 f) := rfl

/-- A minor of a matrix uses only entries of the matrix. -/
theorem minor_congr {n : Nat} {m m' : IntMat} (h : ∀ i j, i < n + 1 → j < n + 1 → m i j = m' i j) (row col : Nat)
    {a b : Nat} (ha : a < n) (hb : b < n) : minor m row col a b = minor m' row col a b := by
  simp only [minor]; exact h _ _ (by split <;> omega) (by split <;> omega)

/-- The determinant uses only the entries of the matrix. -/
theorem determinant_congr {n : Nat} (hn : 1 ≤ n) {m m' : IntMat} (h : ∀ i j, i < n → j < n → m i j = m' i j) :
    determinant n m = determinant n m' := by
  induction n using Nat.strong_induction_on generalizing m m' with
  | _ n ih =>
    match n, hn with
    | 1, _ => exact h 0 0 (by omega) (by omega)
    | n + 2, _ =>
      rw [determinant_succ_succ, determinant_succ_succ]
      refine sumTo_congr fun f hf => ?_
      rw [h 0 f (by omega) hf, ih (n + 1) (by omega) (by omega) fun a b ha hb => minor_congr h 0 f ha hb]

/-- The adjugate uses only the entries of the matrix. -/
theorem adjoint_congr {n : Nat} {m m' : IntMat} (h : ∀ i j, i < n → j < n → m i j = m' i j) {i j : Nat}
    (hi : i < n) : adjoint n m i j = adjoint n m' i j := by
  simp only [adjoint]
  by_cases h1 : n = 1
  · simp [h1]
  · obtain ⟨k, rfl⟩ : ∃ k, n = k + 1 := ⟨n - 1, by omega⟩
    rw [if_neg h1, if_neg h1, Nat.add_sub_cancel,
      determinant_congr (by omega) fun a b ha hb => minor_congr h j i ha hb]

/-- An entry of the adjugate is a residue. -/
theorem adjoint_range (n : Nat) (m : IntMat) (i j : Nat) : 0 ≤ adjoint n m i j ∧ adjoint n m i j < 26 := by
  simp only [adjoint]
  split
  · omega
  · exact ⟨canon_nonneg _, canon_lt _⟩

/-- Everything `modularInverse` can answer, on residues. -/
theorem modularInverse_table : ∀ c : Fin 26,
    (modularInverse (c.val : Int)).elim (Int.gcd (c.val : Int) 26 != 1)
      (fun x => decide (1 ≤ x ∧ x < 26 ∧ ((c.val : Int) * x) % 26 = 1)) = true := by
  decide

/-- The modular inverse depends only on the residue. -/
theorem modularInverse_canon (a : Int) : modularInverse a = modularInverse (canon a) := by
  have h : canon (canon a) = canon a := by simp only [canon]; omega
  simp only [modularInverse, h]

/-- Everything `modularInverse` can answer: none for `NoModularInverse`, or the inverse in `[1, 26)`. -/
theorem modularInverse_spec (a : Int) :
    (modularInverse a = none ∧ Int.gcd (canon a) 26 ≠ 1) ∨
    ∃ x, modularInverse a = some x ∧ Int.gcd (canon a) 26 = 1 ∧ 1 ≤ x ∧ x < 26 ∧ (a * x) % 26 = 1 := by
  have h0 := canon_nonneg a
  have h1 := canon_lt a
  have ht := modularInverse_table ⟨(canon a).toNat, by omega⟩
  have hc : (((canon a).toNat : Nat) : Int) = canon a := by omega
  simp only [hc, ← modularInverse_canon] at ht
  cases hm : modularInverse a with
  | none => rw [hm] at ht; exact .inl ⟨rfl, by simpa using ht⟩
  | some x =>
    rw [hm] at ht
    replace ht := of_decide_eq_true ht
    refine .inr ⟨x, rfl, ?_, ht.1, ht.2.1, ?_⟩
    · by_contra hg; simp [modularInverse, hg] at hm
    · rw [← ht.2.2, canon_eq_emod]; simp [Int.mul_emod]

/-- Everything `inverseMatrix` can answer: none for `NonInvertibleMatrix`, or the reduced product of the
adjugate and the inverse of the determinant. -/
theorem inverseMatrix_spec (n : Nat) (m : IntMat) :
    (inverseMatrix n m = none ∧ Int.gcd (canon (determinant n m)) 26 ≠ 1) ∨
    ∃ d, inverseMatrix n m = some (fun i j => canon (adjoint n m i j * d)) ∧
      Int.gcd (canon (determinant n m)) 26 = 1 ∧ 1 ≤ d ∧ d < 26 ∧ (determinant n m * d) % 26 = 1 := by
  have hc : canon (canon (determinant n m)) = canon (determinant n m) := by simp only [canon]; omega
  obtain ⟨hm, hg⟩ | ⟨x, hm, hg, h1, h2, hx⟩ := modularInverse_spec (canon (determinant n m))
  · exact .inl ⟨by simp only [inverseMatrix, hm], by rwa [hc] at hg⟩
  · refine .inr ⟨x, by simp only [inverseMatrix, hm], by rwa [hc] at hg, h1, h2, ?_⟩
    rw [← hx, canon_eq_emod]; simp [Int.mul_emod]

end Sys2Proof.Machine
end

