-- ==== Sys2Proof/Laws/Window.lean ====
section
/-! SUPPORT. The register map at each listed offset, and what reads see. -/

namespace Sys2Proof.Machine

@[simp] theorem regAt_id (n : Nat) : regAt n 0x000#12 = .id := rfl
@[simp] theorem regAt_version (n : Nat) : regAt n 0x004#12 = .version := rfl
@[simp] theorem regAt_param (n : Nat) : regAt n 0x008#12 = .param := rfl
@[simp] theorem regAt_dim (n : Nat) : regAt n 0x00C#12 = .dim := rfl
@[simp] theorem regAt_cmd (n : Nat) : regAt n 0x010#12 = .cmd := rfl
@[simp] theorem regAt_status (n : Nat) : regAt n 0x014#12 = .status := rfl
@[simp] theorem regAt_irqEn (n : Nat) : regAt n 0x018#12 = .irqEn := rfl
@[simp] theorem regAt_errInfo (n : Nat) : regAt n 0x01C#12 = .errInfo := rfl
@[simp] theorem regAt_lastCmd (n : Nat) : regAt n 0x020#12 = .lastCmd := rfl
@[simp] theorem regAt_scalarIn (n : Nat) : regAt n 0x024#12 = .scalarIn := rfl
@[simp] theorem regAt_scalarOut (n : Nat) : regAt n 0x028#12 = .scalarOut := rfl
@[simp] theorem regAt_detRes (n : Nat) : regAt n 0x02C#12 = .detRes := rfl

/-! ## The arrays of the table of R22, first by word slot, then by byte offset -/

/-- A byte offset at a word reaches the register of its word slot. -/
theorem regAt_word (n : Nat) {x : Nat} (hx : x < 1024) : regAt n (BitVec.ofNat 12 (4 * x)) = slotReg n x := by
  rw [regAt, BitVec.toNat_ofNat, show 4 * x % 2 ^ 12 / 4 = x by omega]

theorem slotReg_detRaw (n : Nat) {k : Nat} (hk : k < 8) : slotReg n (0x040 / 4 + k) = .detRaw (Fin.ofNat 8 k) := by
  unfold slotReg
  split_ifs <;> first | omega | rw [Nat.add_sub_cancel_left]

theorem slotReg_k (n : Nat) {x : Nat} (hx : x < 64) : slotReg n (0x100 / 4 + x) = matrixReg n x .k := by
  unfold slotReg
  split_ifs <;> first | omega | rw [Nat.add_sub_cancel_left]

theorem slotReg_v (n : Nat) {j : Nat} (hj : j < 8) : slotReg n (0x200 / 4 + j) = vectorReg n j .v := by
  unfold slotReg
  split_ifs <;> first | omega | rw [Nat.add_sub_cancel_left]

theorem slotReg_w (n : Nat) {i : Nat} (hi : i < 8) : slotReg n (0x280 / 4 + i) = vectorReg n i .w := by
  unfold slotReg
  split_ifs <;> first | omega | rw [Nat.add_sub_cancel_left]

theorem slotReg_r (n : Nat) {x : Nat} (hx : x < 64) : slotReg n (0x300 / 4 + x) = matrixReg n x .r := by
  unfold slotReg
  split_ifs <;> first | omega | rw [Nat.add_sub_cancel_left]

/-- Slot `8·i + j` of a matrix file is element `[i][j]` when both indices are below `NMAX`. -/
theorem matrixReg_elem {n i j : Nat} (hn : n ≤ 7) (hi : i < n) (hj : j < n) (f : Fin 8 → Fin 8 → Reg) :
    matrixReg n (8 * i + j) f = f (Fin.ofNat 8 i) (Fin.ofNat 8 j) := by
  have row : (8 * i + j) / 8 = i := by omega
  have col : (8 * i + j) % 8 = j := by omega
  simp only [matrixReg, vectorReg, row, col, hi, hj, if_true]

theorem regAt_detRaw (n : Nat) {k : Nat} (hk : k < 8) :
    regAt n (BitVec.ofNat 12 (0x040 + 4 * k)) = .detRaw (Fin.ofNat 8 k) := by
  rw [show 0x040 + 4 * k = 4 * (0x040 / 4 + k) by omega, regAt_word n (by omega), slotReg_detRaw n hk]

theorem regAt_k {n i j : Nat} (hn : n ≤ 7) (hi : i < n) (hj : j < n) :
    regAt n (BitVec.ofNat 12 (0x100 + 0x20 * i + 4 * j)) = .k (Fin.ofNat 8 i) (Fin.ofNat 8 j) := by
  rw [show 0x100 + 0x20 * i + 4 * j = 4 * (0x100 / 4 + (8 * i + j)) by omega, regAt_word n (by omega),
    slotReg_k n (by omega), matrixReg_elem hn hi hj]

theorem regAt_v {n j : Nat} (hn : n ≤ 7) (hj : j < n) :
    regAt n (BitVec.ofNat 12 (0x200 + 4 * j)) = .v (Fin.ofNat 8 j) := by
  rw [show 0x200 + 4 * j = 4 * (0x200 / 4 + j) by omega, regAt_word n (by omega), slotReg_v n (by omega), vectorReg,
    if_pos hj]

theorem regAt_w {n i : Nat} (hn : n ≤ 7) (hi : i < n) :
    regAt n (BitVec.ofNat 12 (0x280 + 4 * i)) = .w (Fin.ofNat 8 i) := by
  rw [show 0x280 + 4 * i = 4 * (0x280 / 4 + i) by omega, regAt_word n (by omega), slotReg_w n (by omega), vectorReg,
    if_pos hi]

theorem regAt_r {n i j : Nat} (hn : n ≤ 7) (hi : i < n) (hj : j < n) :
    regAt n (BitVec.ofNat 12 (0x300 + 0x20 * i + 4 * j)) = .r (Fin.ofNat 8 i) (Fin.ofNat 8 j) := by
  rw [show 0x300 + 0x20 * i + 4 * j = 4 * (0x300 / 4 + (8 * i + j)) by omega, regAt_word n (by omega),
    slotReg_r n (by omega), matrixReg_elem hn hi hj]

/-- The map depends only on the word of the offset (R63). -/
theorem regAt_congr (n : Nat) {a b : Offset} (h : a.toNat / 4 = b.toNat / 4) : regAt n a = regAt n b := by
  simp only [regAt, h]

/-- The word slot of a register: its offset in the table of R22, divided by 4 (0 for no register). -/
def Reg.slot : Reg → Nat
  | .id => 0
  | .version => 1
  | .param => 2
  | .dim => 3
  | .cmd => 4
  | .status => 5
  | .irqEn => 6
  | .errInfo => 7
  | .lastCmd => 8
  | .scalarIn => 9
  | .scalarOut => 10
  | .detRes => 11
  | .detRaw x => 16 + x.val
  | .k i j => 64 + 8 * i.val + j.val
  | .v j => 128 + j.val
  | .w i => 160 + i.val
  | .r i j => 192 + 8 * i.val + j.val
  | .reserved => 0

/-- A slot that holds a register holds the register of that slot. -/
theorem slot_slotReg (n x : Nat) : slotReg n x = .reserved ∨ (slotReg n x).slot = x := by
  simp only [slotReg, matrixReg, vectorReg]
  repeat' split
  all_goals first
    | exact .inl rfl
    | (right; simp only [Reg.slot, Fin.val_ofNat]; omega)
    | (unfold controlReg; split <;> first | exact .inl rfl | exact .inr rfl)

/-- Two offsets of different words reach different registers. -/
theorem regAt_ne {n : Nat} {a b : Offset} (h : a.toNat / 4 ≠ b.toNat / 4) (hr : regAt n a = regAt n b) :
    regAt n a = .reserved := by
  rcases slot_slotReg n (a.toNat / 4) with ha | ha
  · exact ha
  · rcases slot_slotReg n (b.toNat / 4) with hb | hb
    · exact hr.trans hb
    · exact absurd (ha.symm.trans ((congrArg Reg.slot hr).trans hb)) h

/-- What the window returns at the listed offsets. -/
theorem hostRead_eq {s : State} {off : Offset} {r : Reg} (h : regAt s.nmax.val off = r) :
    hostRead off s = regValue s r := by rw [hostRead, h]

/-- What a write does at the listed offsets. -/
theorem hostWrite_eq {s : State} {off : Offset} {r : Reg} (h : regAt s.nmax.val off = r) (x : Word) :
    hostWrite off x s = regWrite x s r := by rw [hostWrite, h]

/-- A byte of the window is unchanged when its word reads the same. -/
theorem windowByte_congr {s t : State} {a : Offset} (h : hostRead a t = hostRead a s) :
    windowByte a t = windowByte a s := by rw [windowByte, windowByte, h]

/-- The register value depends on the fields a register shows. -/
theorem regValue_congr {s t : State} {r : Reg} (hn : t.nmax = s.nmax)
    (h : match r with
      | .id | .version | .param | .cmd | .reserved => True
      | .dim => t.dimN = s.dimN
      | .status => statusWord t = statusWord s
      | .irqEn => t.doneIe = s.doneIe
      | .errInfo => t.errInfo = s.errInfo
      | .lastCmd => t.lastCmd = s.lastCmd
      | .scalarIn => t.scalarIn = s.scalarIn
      | .scalarOut => t.scalarOut = s.scalarOut
      | .detRes => t.detRes = s.detRes
      | .detRaw _ => t.detRaw = s.detRaw
      | .k i j => matEntry t.k i.val j.val = matEntry s.k i.val j.val
      | .v j => vecEntry t.v j.val = vecEntry s.v j.val
      | .w i => vecEntry t.w i.val = vecEntry s.w i.val
      | .r i j => matEntry t.r i.val j.val = matEntry s.r i.val j.val) :
    regValue t r = regValue s r := by
  cases r <;> simp_all [regValue, paramWord, irqEnWord]

end Sys2Proof.Machine
end

