-- ==== Sys2Proof/Laws/Ops.lean ====
section
/-! SUPPORT. One lemma for each shared operation that says everything it can do. -/

namespace Sys2Proof.Machine

/-- Everything the dimension check can do. -/
theorem withDimension_cases (body : Nat → CmdOutcome) (s : State) :
    (1 ≤ dimension s ∧ dimension s ≤ s.nmax.val ∧ withDimension body s = body (dimension s)) ∨
    (¬ (1 ≤ dimension s ∧ dimension s ≤ s.nmax.val) ∧
      withDimension body s = .error .invalidMatrixDimension (BitVec.ofNat 32 (dimension s))) := by
  by_cases h : 1 ≤ dimension s ∧ dimension s ≤ s.nmax.val
  · exact .inl ⟨h.1, h.2, if_pos h⟩
  · exact .inr ⟨h, if_neg h⟩

/-- How each command ends, on the state at its completion (R104 without the illegal words). -/
def outcomeOf (i : Instr) (s : State) : CmdOutcome :=
  match i with
  | .nop => .ok .none
  | .canon => canonOutcome s
  | .mulv => multiplyOutcome s.k s
  | .mulvR => multiplyOutcome s.r s
  | .det => detOutcome s
  | .adj => adjOutcome s
  | .modinv => modinvOutcome s
  | .matinv => matinvOutcome s

/-- Every command completes with its outcome. -/
theorem exec_eq_complete (i : Instr) (s : State) : exec i s = .next (complete (outcomeOf i s) s) := by
  cases i <;> rfl

/-- The registers the writes of a command are to (R83). -/
theorem outcomeOf_ok {i : Instr} {s : State} {x : ResultWrites} (h : outcomeOf i s = .ok x) :
    match i with
    | .nop => x = .none
    | .canon | .modinv => ∃ y, x = .scalarOut y
    | .mulv | .mulvR => ∃ f, x = .w f
    | .det => ∃ raw res, x = .det raw res
    | .adj | .matinv => ∃ m, x = .r m := by
  cases i <;> simp only [outcomeOf, canonOutcome, multiplyOutcome, detOutcome, adjOutcome, modinvOutcome,
    matinvOutcome, withDimension] at h ⊢ <;> (repeat' split at h) <;> cases h <;> first | rfl | exact ⟨_, rfl⟩ | exact ⟨_, _, rfl⟩

/-- Everything a write to a register can do. -/
theorem regWrite_cases (x : Word) (s : State) (r : Reg) :
    (s.engine.isBusy = true ∧ regWrite x s r = overrun s ∧
      (r = .cmd ∨ r = .dim ∨ r = .scalarIn ∨ (∃ i j, r = .k i j) ∨ (∃ j, r = .v j) ∨ ∃ i j, r = .r i j)) ∨
    (s.engine.isBusy = false ∧ r = .cmd ∧ regWrite x s r = acceptCommand x s) ∨
    (s.engine.isBusy = false ∧ r = .dim ∧ regWrite x s r = { s with dimN := x.extractLsb' 0 3 }) ∨
    (s.engine.isBusy = false ∧ r = .scalarIn ∧ regWrite x s r = { s with scalarIn := x }) ∨
    (s.engine.isBusy = false ∧ ∃ i j, r = .k i j ∧ regWrite x s r = { s with k := matSet s.k i j x }) ∨
    (s.engine.isBusy = false ∧ ∃ j, r = .v j ∧ regWrite x s r = { s with v := vecSet s.v j x }) ∨
    (s.engine.isBusy = false ∧ ∃ i j, r = .r i j ∧ regWrite x s r = { s with r := matSet s.r i j x }) ∨
    (r = .status ∧ regWrite x s r = writeStatus x s) ∨
    (r = .irqEn ∧ regWrite x s r = { s with doneIe := x.getLsbD 0 }) ∨
    ((r = .id ∨ r = .version ∨ r = .param ∨ r = .errInfo ∨ r = .lastCmd ∨ r = .scalarOut ∨ r = .detRes ∨
        (∃ k, r = .detRaw k) ∨ (∃ i, r = .w i) ∨ r = .reserved) ∧ regWrite x s r = s) := by
  cases r <;> cases hb : s.engine.isBusy <;> simp [regWrite, unlessBusy, hb]

/-- Everything the engine's turn can do. -/
theorem engineTurn_cases (s : State) :
    (s.engine = .idle ∧ engineTurn s = .next s) ∨
    (∃ c i, s.engine = .busy c ∧ decode c = .ok i ∧ engineTurn s = .next (complete (outcomeOf i s) s)) ∨
    ∃ c e, s.engine = .busy c ∧ decode c = .error e ∧
      engineTurn s = .next (complete (.error .illegalCommand c) s) := by
  cases he : s.engine with
  | idle => exact .inl ⟨rfl, by simp [engineTurn, he]⟩
  | busy c =>
    cases hd : decode c with
    | ok i => exact .inr (.inl ⟨c, i, rfl, hd, by simp [engineTurn, he, hd, exec_eq_complete]⟩)
    | error e => exact .inr (.inr ⟨c, e, rfl, hd, by simp [engineTurn, he, hd, execIllegal]⟩)

/-- A transaction is well formed exactly when it is 4 bytes at a multiple of 4. -/
theorem wellFormed_iff (t : Transaction) : t.wellFormed = true ↔ t.size = 4 ∧ t.off.toNat % 4 = 0 := by
  simp [Transaction.wellFormed, isWordOffset]

@[simp] theorem wellFormed_read (off : Offset) (n : Nat) :
    (Transaction.read off n).wellFormed = (n == 4 && isWordOffset off) := rfl
@[simp] theorem wellFormed_write (off : Offset) (n : Nat) (x : Word) :
    (Transaction.write off n x).wellFormed = (n == 4 && isWordOffset off) := rfl

/-- Everything a host step can do. -/
theorem hostTurn_cases (t : Transaction) (s : State) :
    (t.size = 4 ∧ t.off.toNat % 4 = 0 ∧ hostTurn t s = .next (if s.rst then resetBlock true s else perform t s)) ∨
    (t.size = 4 ∧ t.off.toNat % 4 ≠ 0 ∧ hostTurn t s = .refused .misalignedAccess) ∨
    (t.size ≠ 4 ∧ hostTurn t s = .refused .subWordAccess) := by
  by_cases hs : t.size = 4 <;> by_cases ho : t.off.toNat % 4 = 0 <;>
    simp [hostTurn, wellFormed_iff, accessRefusal, hs, ho]

/-- Everything one event can do, when it leads to a next state. -/
theorem takeEvent_cases {e : Event} {s t : State} (h : takeEvent e s = .next t) :
    (s.rst = false ∧ ∃ tr, e = .host tr ∧ tr.wellFormed = true ∧ t = perform tr s) ∨
    (s.rst = false ∧ e = .engine ∧ engineTurn s = .next t) ∨
    (s.rst = false ∧ e = .rst false ∧ t = s) ∨
    ((s.rst = true ∧ e ≠ .rst false ∨ e = .rst true) ∧ t = resetBlock true s) ∨
    (s.rst = true ∧ e = .rst false ∧ t = resetBlock false s) := by
  cases hr : s.rst <;> cases e with
  | host tr =>
    cases hw : tr.wellFormed <;> simp [takeEvent, hostTurn, hw, hr] at h
    subst h; simp [hw]
  | engine => simp [takeEvent, hr] at h; simp_all
  | rst l => cases l <;> simp [takeEvent, setRst, hr] at h <;> simp_all

/-- A step takes the first event of the agenda, or the engine's turn when there is none. -/
theorem step_eq (s : State) :
    step s = takeEvent (s.agenda.head?.getD .engine) (withAgenda s.agenda.tail s) := by
  cases h : s.agenda with
  | nil =>
    have : withAgenda [] s = s := by simp only [withAgenda, ← h]
    simp [step, stepBlock, h, this]
  | cons e rest => simp [step, stepBlock, h]

end Sys2Proof.Machine
end

