-- ==== Sys2Proof/Laws/PerInstr.lean ====
section
/-! SUPPORT. Facts stated of every command as syntax, one lemma per constructor. -/

namespace Sys2Proof.Laws.LegalWord

/-- The word of a command has `RSV` = 0, an assigned `OP`, and `MSEL` = 1 only with `OP` = 0x2 (R80, R85). -/
def Statement (i : Instr) : Prop :=
  rsvField (encode i) = 0 ∧ (opField (encode i)).toNat ≤ 6 ∧
    (mselField (encode i) = 1 → opField (encode i) = 0x2)

theorem nop : Statement .nop := by unfold Statement; decide
theorem canon : Statement .canon := by unfold Statement; decide
theorem mulv : Statement .mulv := by unfold Statement; decide
theorem mulvR : Statement .mulvR := by unfold Statement; decide
theorem det : Statement .det := by unfold Statement; decide
theorem adj : Statement .adj := by unfold Statement; decide
theorem modinv : Statement .modinv := by unfold Statement; decide
theorem matinv : Statement .matinv := by unfold Statement; decide

end Sys2Proof.Laws.LegalWord
end

