-- ==== Sys2Proof/Tests/Slice0.lean ====
section
/-! SUPPORT. Tests. Every expected value is a value of 95_test_vectors.md (its id in the docstring) or is
written out from the rule named. Then, for each statement with hypotheses, a state that meets them. -/

open Sys2Proof Sys2Proof.Machine Sys2Proof.Spec

namespace Sys2Proof.Tests

/-! ## Small states -/

/-- The matrix file with these rows. -/
def fileOf (rows : List (List Int)) : MatFile := matOf fun i j => BitVec.ofInt 32 ((rows.getD i []).getD j 0)

/-- After reset with `DIM.N`, `K` and `V` written. -/
def keyed (n : Nat) (k : List (List Int)) (v : List Int) : State :=
  { State.reset with
    dimN := BitVec.ofNat 3 n, k := fileOf k, v := vecOf fun j => BitVec.ofInt 32 (v.getD j 0) }

/-- After reset with `SCALAR_IN` written. -/
def scalar (x : Word) : State := { State.reset with scalarIn := x }

/-- After reset, with these events to come. -/
def facing (l : List Event) : State := { State.reset with agenda := l }

/-- After acceptance of `c`, with these events to come. -/
def flying (c : Word) (l : List Event) : State := { acceptCommand c State.reset with agenda := l }

/-- The next state, when there is one. -/
def nextOf (o : Host.Outcome State Fault Refusal) : Option State :=
  match o with
  | .next t => some t
  | .fault _ => none
  | .refused _ => none

/-- What the words at these offsets read after the command. -/
def readsAfter (i : Instr) (s : State) (offs : List Offset) : Option (List Word) :=
  (nextOf (exec i s)).map fun t => offs.map fun a => hostRead a t

/-- What the words at these offsets read after one step. -/
def readsAfterStep (s : State) (offs : List Offset) : Option (List Word) :=
  (nextOf (step s)).map fun t => offs.map fun a => hostRead a t

/-! ## Well-formedness: the check refuses a term for each way to be ill formed (R63) -/

theorem test_byte_read_is_ill_formed : (Transaction.read 0x200 1).wellFormed = false := by decide
theorem test_halfword_write_is_ill_formed : (Transaction.write 0x200 2 7).wellFormed = false := by decide
theorem test_doubleword_read_is_ill_formed : (Transaction.read 0x200 8).wellFormed = false := by decide
theorem test_word_write_is_well_formed : (Transaction.write 0x200 4 7).wellFormed = true := by decide
theorem test_misaligned_read_is_ill_formed : (Transaction.read 0x201 4).wellFormed = false := by decide
theorem test_misaligned_write_is_ill_formed : (Transaction.write 0x202 4 7).wellFormed = false := by decide
/-- U3. -/
theorem test_misaligned_read_is_refused :
    step (facing [.host (.read 0x203 4)]) = .refused .misalignedAccess := by rfl
theorem test_sub_word_write_is_refused :
    step (facing [.host (.write 0x200 1 7)]) = .refused .subWordAccess := by rfl

/-! ## Decoding: the words of R81, bit by bit from R80 (RSV, MSEL, OP) -/

theorem test_decode_nop : decode 0b000000000000000000000000000_0_0000 = .ok .nop := by decide
theorem test_decode_canon : decode 0b000000000000000000000000000_0_0001 = .ok .canon := by decide
theorem test_decode_mulv : decode 0b000000000000000000000000000_0_0010 = .ok .mulv := by decide
theorem test_decode_mulvR : decode 0b000000000000000000000000000_1_0010 = .ok .mulvR := by decide
theorem test_decode_det : decode 0b000000000000000000000000000_0_0011 = .ok .det := by decide
theorem test_decode_adj : decode 0b000000000000000000000000000_0_0100 = .ok .adj := by decide
theorem test_decode_modinv : decode 0b000000000000000000000000000_0_0101 = .ok .modinv := by decide
theorem test_decode_matinv : decode 0b000000000000000000000000000_0_0110 = .ok .matinv := by decide

/-- V-CTL-2, V-CTL-3: `OP` 0x7 and 0xF. -/
theorem test_decode_reserved_op :
    decode 0x00000007 = .error .reservedOp ∧ decode 0x0000000F = .error .reservedOp := by decide

/-- V-CTL-4 to V-CTL-6: `MSEL` with an `OP` other than 0x2. -/
theorem test_decode_msel :
    decode 0x00000010 = .error .mselWithoutMulv ∧ decode 0x00000013 = .error .mselWithoutMulv ∧
    decode 0x00000016 = .error .mselWithoutMulv := by decide

/-- V-CTL-7 to V-CTL-9: `RSV` not 0. -/
theorem test_decode_reserved_bits :
    decode 0x00000020 = .error .reservedBits ∧ decode 0x80000002 = .error .reservedBits ∧
    decode 0xFFFFFFFF = .error .reservedBits := by decide

theorem test_decode_table_word :
    decodeTableWord 32 0x12 = some .mulvR ∧ decodeTableWord 32 0x17 = none := by decide

/-! ## The commands -/

/-- V-CTL-1. -/
theorem test_nop : readsAfter .nop (flying 0 []) [0x014, 0x01C, 0x020] = some [2, 0, 0] := by decide

/-- V-CAN-6: read signed. -/
theorem test_canon_minus_one : readsAfter .canon (scalar 0xFFFFFFFF) [0x028, 0x014] = some [25, 2] := by decide
/-- V-CAN-11. -/
theorem test_canon_most_negative : readsAfter .canon (scalar 0x80000000) [0x028] = some [2] := by decide

/-- V-MUL-4: a negative key. -/
theorem test_mulv_negative :
    readsAfter .mulv (keyed 2 [[-3, -3], [-2, -5]] [7, 8]) [0x280, 0x284, 0x288, 0x014] = some [7, 24, 0, 2] := by
  decide
/-- V-MUL-5: the exact product of two words. -/
theorem test_mulv_exact :
    readsAfter .mulv (keyed 1 [[2147483647]] [2147483647]) [0x280, 0x284] = some [9, 0] := by decide

/-- V-MULR-5: `R`, not `K`. -/
theorem test_mulvR_uses_r :
    readsAfter .mulvR { keyed 2 [[3, 3], [2, 5]] [7, 8] with r := fileOf [[15, 17], [20, 9]] } [0x280, 0x284] =
      some [7, 4] := by decide
/-- V-MULR-6. -/
theorem test_mulvR_dimension_0 :
    readsAfter .mulvR { State.reset with r := fileOf [[1]] } [0x014, 0x01C, 0x280] = some [0x206, 0, 0] := by decide

/-- V-DET-2: the sign fills the eight words. -/
theorem test_det_negative :
    readsAfter .det (keyed 1 [[-5]] []) [0x040, 0x044, 0x05C, 0x02C] =
      some [0xFFFFFFFB, 0xFFFFFFFF, 0xFFFFFFFF, 21] := by decide
/-- V-DET-7. -/
theorem test_det_three :
    readsAfter .det (keyed 3 [[6, 24, 1], [13, 16, 10], [20, 17, 15]] []) [0x040, 0x044, 0x02C] =
      some [0x1B9, 0, 25] := by decide

/-- V-ADJ-2: the transpose is taken. -/
theorem test_adj_transposes :
    readsAfter .adj (keyed 2 [[3, 3], [2, 5]] []) [0x300, 0x304, 0x320, 0x324, 0x308] =
      some [5, 23, 24, 3, 0] := by decide
/-- V-ADJ-3: size 1. -/
theorem test_adj_one : readsAfter .adj (keyed 1 [[0]] []) [0x300, 0x014] = some [1, 2] := by decide

/-- V-INV-3. -/
theorem test_modinv_minus_three : readsAfter .modinv (scalar 0xFFFFFFFD) [0x028, 0x014] = some [17, 2] := by decide
/-- V-INV-8, V-INV-13: the failure keeps `SCALAR_OUT`. -/
theorem test_modinv_fails :
    readsAfter .modinv { scalar 0xFFFFFFF3 with scalarOut := 3 } [0x014, 0x01C, 0x028] = some [0x306, 13, 3] := by
  decide

/-- V-MAT-8. -/
theorem test_matinv_three :
    readsAfter .matinv (keyed 3 [[6, 24, 1], [13, 16, 10], [20, 17, 15]] [])
      [0x300, 0x304, 0x308, 0x320, 0x324, 0x328, 0x340, 0x344, 0x348] = some [8, 5, 10, 21, 8, 21, 21, 12, 8] := by
  decide
/-- V-MAT-12, P4: the failure keeps `R`. -/
theorem test_matinv_fails :
    readsAfter .matinv { keyed 2 [[1, 2], [3, 4]] [] with r := fileOf [[4, 24], [23, 1]] }
      [0x014, 0x01C, 0x300, 0x304, 0x320, 0x324] = some [0x406, 24, 4, 24, 23, 1] := by decide

/-! ## The window, the flags and reset, one step each -/

/-- V-CTL-10: IllegalCommand before the dimension check. -/
theorem test_illegal_first :
    readsAfterStep (flying 0x80000006 []) [0x014, 0x01C, 0x020] = some [0x106, 0x80000006, 0x80000006] := by decide
/-- V-MUL-16: dimension 7 in an instance with `NMAX` = 6. -/
theorem test_dimension_7 :
    readsAfterStep { flying 0x2 [] with dimN := 7 } [0x014, 0x01C, 0x280] = some [0x206, 7, 0] := by decide
/-- V-REG-1. -/
theorem test_identification :
    [0x000, 0x004, 0x008].map (fun a => hostRead a State.reset) = [0x48494C4C, 0x00010000, 0x00001A06] := by decide
/-- V-REG-3. -/
theorem test_dim_write :
    readsAfterStep (facing [.host (.write 0x00C 4 0xFFFFFFFF)]) [0x00C] = some [7] := by decide
/-- V-REG-10, S9: negative words are stored as written. -/
theorem test_key_write :
    readsAfterStep (facing [.host (.write 0x104 4 0xFFFFFFF9)]) [0x104, 0x100, 0x124] = some [0xFFFFFFF9, 0, 0] := by
  decide
/-- V-REG-8: a write beyond `NMAX` is ignored. -/
theorem test_reserved_write :
    nextOf (step (facing [.host (.write 0x118 4 5)])) = some State.reset := by decide
/-- V-REG-11. -/
theorem test_status_write :
    readsAfterStep { facing [.host (.write 0x014 4 0xFFFFFFFF)] with done := true, errcode := .nonInvertibleMatrix }
      [0x014] = some [0x404] := by decide
/-- V-BSY-1. -/
theorem test_acceptance :
    readsAfterStep { facing [.host (.write 0x010 4 0x2)] with done := true, errcode := .noModularInverse, errInfo := 2 }
      [0x014, 0x01C, 0x020] = some [1, 0, 2] := by decide
/-- V-BSY-2. -/
theorem test_busy_write :
    readsAfterStep (flying 0x2 [.host (.write 0x200 4 9)]) [0x200, 0x014] = some [0, 9] := by decide
/-- V-BSY-5. -/
theorem test_busy_status_write :
    readsAfterStep { flying 0x2 [.host (.write 0x014 4 0x8)] with ovr := true } [0x014] = some [1] := by decide
/-- V-IRQ-1. -/
theorem test_irq :
    (nextOf (step { flying 0x0 [.engine] with doneIe := true })).map irq = some true := by decide
/-- V-RST-1: the command in flight is abandoned. -/
theorem test_reset_while_busy :
    readsAfterStep { flying 0x6 [.rst true, .engine] with ovr := true, dimN := 2, lastCmd := 6 }
      [0x014, 0x020, 0x00C, 0x300] = some [0, 0, 0, 0] := by decide
/-- R62: byte 0 of a word is its least significant. -/
theorem test_byte_order : windowByte 0x000 State.reset = 0x4C ∧ windowByte 0x003 State.reset = 0x48 := by decide
/-- R61, R65: the word a read returns. -/
theorem test_read_data : (nextOf (step (facing [.host (.read 0x008 4)]))).map (·.rdata) = some 0x1A06 := by decide

/-! ## States that meet the hypotheses of the statements -/

/-- A key with an inverse, and one with none. -/
def goodKey : State := keyed 2 [[3, 3], [2, 5]] [7, 8]
def badKey : State := keyed 2 [[1, 0], [0, 2]] [7, 8]

/-- The state in which a host is about to write `x` at `off` with the engine idle, or busy with `c`. -/
def idleWriting (off : Offset) (x : Word) : State := facing [.host (.write off 4 x)]
def busyWriting (c : Word) (off : Offset) (x : Word) : State := flying c [.host (.write off 4 x)]

theorem idleWriting_hostWrites (off : Offset) (x : Word) : HostWrites (idleWriting off x) off x := And.intro rfl rfl
theorem busyWriting_hostWrites (c : Word) (off : Offset) (x : Word) : HostWrites (busyWriting c off x) off x :=
  And.intro rfl rfl
theorem flying_engineHasTurn (c : Word) : EngineHasTurn (flying c []) := And.intro rfl (.inl rfl)
theorem flying_engineHasTurn_drawn (c : Word) (l : List Event) : EngineHasTurn (flying c (.engine :: l)) :=
  And.intro rfl (.inr rfl)

theorem witness_DecodeInvertsEncode : Instr.matinv.wellFormed = true ∧ decode 0x6 = .ok .matinv := by decide

theorem witness_IllegalWordsCompleteWithIllegalCommand :
    (∃ e, decode 0x80000002 = .error e) ∧ (∃ e, decode 0x10 = .error e) ∧ (∃ e, decode 0x7 = .error e) ∧
    (idleWriting 0x010 0x7).engine = .idle ∧ HostWrites (idleWriting 0x010 0x7) 0x010 0x7 ∧
    (flying 0x7 []).engine = .busy 0x7 ∧ EngineHasTurn (flying 0x7 []) :=
  ⟨⟨.reservedBits, by decide⟩, ⟨.mselWithoutMulv, by decide⟩, ⟨.reservedOp, by decide⟩, rfl,
    idleWriting_hostWrites _ _, rfl, flying_engineHasTurn _⟩

theorem witness_StepRunsTheDecodedCommand :
    EngineHasTurn (flying 0x12 []) ∧ (flying 0x12 []).engine = .busy 0x12 ∧ decode 0x12 = .ok .mulvR ∧
    EngineHasTurn (flying 0x6 [.engine]) ∧ decode 0x6 = .ok .matinv :=
  ⟨flying_engineHasTurn _, rfl, by decide, flying_engineHasTurn_drawn _ _, by decide⟩

theorem witness_FetchedWordRunsNext : 0x12 < 2 ^ 32 ∧ decodeTableWord 32 0x12 = some .mulvR := by decide

theorem witness_HostStepsReadAndWriteTheWindow :
    HostHasTurn (.read 0xFFC 4) (facing [.host (.read 0xFFC 4)]) ∧ (0xFFC : Offset).toNat % 4 = 0 ∧
    HostHasTurn (.write 0x000 4 5) (idleWriting 0x000 5) ∧
    EngineHasTurn State.reset ∧ State.reset.engine = .idle :=
  ⟨And.intro rfl rfl, rfl, idleWriting_hostWrites _ _, And.intro rfl (.inl rfl), rfl⟩

theorem witness_IdleCommandWriteIsAccepted :
    HostWrites (idleWriting 0x010 0x2) 0x010 0x2 ∧ (idleWriting 0x010 0x2).engine = .idle :=
  ⟨idleWriting_hostWrites _ _, rfl⟩

theorem witness_BusyCommandWriteIsDropped :
    HostWrites (busyWriting 0x2 0x010 0x3) 0x010 0x3 ∧ (busyWriting 0x2 0x010 0x3).engine = .busy 0x2 :=
  ⟨busyWriting_hostWrites _ _ _, rfl⟩

theorem operandOffsets : OperandOffset 6 0x00C ∧ OperandOffset 6 0x024 ∧ OperandOffset 6 0x100 ∧
    OperandOffset 6 0x1B4 ∧ OperandOffset 6 0x200 ∧ OperandOffset 6 0x214 ∧ OperandOffset 6 0x300 ∧
    OperandOffset 6 0x3B4 :=
  ⟨.inl rfl, .inr (.inl rfl), .inr (.inr (.inl ⟨0, 0, by decide, by decide, rfl⟩)),
    .inr (.inr (.inl ⟨5, 5, by decide, by decide, rfl⟩)), .inr (.inr (.inr (.inl ⟨0, by decide, rfl⟩))),
    .inr (.inr (.inr (.inl ⟨5, by decide, rfl⟩))), .inr (.inr (.inr (.inr ⟨0, 0, by decide, by decide, rfl⟩))),
    .inr (.inr (.inr (.inr ⟨5, 5, by decide, by decide, rfl⟩)))⟩

theorem witness_BusyOperandWritesAreDropped :
    (busyWriting 0x2 0x3B4 1).engine = .busy 0x2 ∧ HostWrites (busyWriting 0x2 0x3B4 1) 0x3B4 1 ∧
    OperandOffset (busyWriting 0x2 0x3B4 1).nmax.val 0x3B4 ∧
    HostWrites (busyWriting 0x2 0x014 8) 0x014 8 ∧ HostWrites (busyWriting 0x2 0x018 1) 0x018 1 ∧
    HostHasTurn (.read 0x200 4) (flying 0x2 [.host (.read 0x200 4)]) :=
  ⟨rfl, busyWriting_hostWrites _ _ _, operandOffsets.2.2.2.2.2.2.2, busyWriting_hostWrites _ _ _,
    busyWriting_hostWrites _ _ _, And.intro rfl rfl⟩

theorem witness_AccessesAreWholeWords :
    (facing [.host (.read 0 3)]).agenda.head? = some (.host (.read 0 3)) ∧ 3 ≠ 4 ∧
    (facing [.host (.read 0 5)]).agenda.head? = some (.host (.read 0 5)) ∧ 5 ≠ 4 ∧
    (facing [.host (.read 0xFFF 4)]).agenda.head? = some (.host (.read 0xFFF 4)) ∧ (0xFFF : Offset).toNat % 4 ≠ 0 ∧
    (facing [.host (.read 0xFFC 4)]).agenda.head? = some (.host (.read 0xFFC 4)) ∧
    (0xFFC : Offset).toNat % 4 = 0 := by decide

/-- Each outcome of a step is reached. -/
theorem witness_OnlyAccessesThatAreNotOneWordStopTheMachine :
    (∃ t, step State.reset = .next t) ∧ step (facing [.host (.read 0 2)]) = .refused .subWordAccess ∧
    step (facing [.host (.write 0xFFD 4 0)]) = .refused .misalignedAccess :=
  ⟨⟨_, rfl⟩, rfl, rfl⟩

theorem witness_AcceptedCommandCompletes :
    (busyWriting 0x2 0x010 0x3).engine = .busy 0x2 ∧ (busyWriting 0x2 0x010 0x3).rst = false ∧
    (busyWriting 0x2 0x010 0x3).hostsKeepToThePort = true ∧
    ∀ e ∈ (busyWriting 0x2 0x010 0x3).agenda, e ≠ .rst true := by
  refine ⟨rfl, rfl, rfl, fun e he => ?_⟩
  have : e = .host (.write 0x010 4 0x3) := List.mem_singleton.mp he
  rw [this]; decide

/-- Boundaries of the table of R22: the last elements, and the reserved offsets beside them. -/
theorem witness_RegisterMap :
    regAt 6 0x05C = .detRaw 7 ∧ regAt 6 0x1B4 = .k 5 5 ∧ regAt 7 0x1D8 = .k 6 6 ∧ regAt 6 0x214 = .v 5 ∧
    regAt 6 0x294 = .w 5 ∧ regAt 6 0x3B4 = .r 5 5 ∧ regAt 6 0x030 = .reserved ∧ regAt 6 0x060 = .reserved ∧
    regAt 6 0x118 = .reserved ∧ regAt 6 0x1C0 = .reserved ∧ regAt 6 0x218 = .reserved ∧ regAt 6 0x298 = .reserved ∧
    regAt 6 0x3C0 = .reserved ∧ regAt 6 0xFFF = .reserved := by
  decide +kernel

/-- A reserved offset is not in the table. -/
theorem reservedOffset : ¬ ListedOffset 6 (wordOffset 0x118) := by
  have h : wordOffset 0x118 = 0x118 := by decide
  rw [h]
  rintro ((h | h | ⟨i, j, _, _, h⟩ | ⟨j, _, h⟩ | ⟨i, j, _, _, h⟩) | (h | ⟨k, _, h⟩ | ⟨i, _, h⟩) | h | h | h) <;>
    first | omega | simp at h

theorem witness_WrittenRegistersReadBack :
    State.reset.engine = .idle ∧ 0 < State.reset.nmax.val ∧ 5 < State.reset.nmax.val := by decide

theorem witness_WritesTouchOneRegister :
    State.reset.engine = .idle ∧ (0x200 : Offset).toNat / 4 ≠ 4 ∧
    (0x204 : Offset).toNat / 4 ≠ (0x200 : Offset).toNat / 4 := by decide

theorem witness_ReservedOffsetsReadZeroAndIgnoreWrites :
    ¬ ListedOffset State.reset.nmax.val (wordOffset 0x118) := reservedOffset

theorem witness_ReadOnlyRegistersIgnoreWrites :
    ReadOnlyOffset State.reset.nmax.val (wordOffset 0x000) ∧ ReadOnlyOffset State.reset.nmax.val (wordOffset 0x05C) ∧
    ReadOnlyOffset State.reset.nmax.val (wordOffset 0x294) :=
  ⟨.inl (by decide), .inr (.inl ⟨7, by decide, by decide⟩), .inr (.inr ⟨5, by decide, by decide⟩)⟩

theorem witness_WindowHoldsEachOffsetOnce : windowOffset (Config.base + 4095) = some 0xFFF := by
  rw [windowOffset, if_pos (by omega), show Config.base + 4095 - Config.base = 4095 by omega]; rfl

/-- Steps of each kind the flags distinguish: acceptance, a dropped write, a completion, a reset. -/
theorem witness_steps :
    (∃ t, step (idleWriting 0x010 0x2) = .next t) ∧ (∃ t, step (busyWriting 0x2 0x200 0) = .next t) ∧
    (∃ t, step (flying 0x0 [.engine]) = .next t) ∧ (∃ t, step (facing [.rst true]) = .next t) ∧
    ResetActs (facing [.rst true]) ∧ ¬ ResetActs (idleWriting 0x010 0x2) ∧ EngineHasTurn (flying 0x0 [.engine]) ∧
    (flying 0x0 [.engine]).engine ≠ .idle :=
  ⟨⟨_, rfl⟩, ⟨_, rfl⟩, ⟨_, rfl⟩, ⟨_, rfl⟩, .inr rfl, by rintro (h | h) <;> simp [idleWriting, facing, State.reset] at h,
    flying_engineHasTurn_drawn _ _, by decide⟩

theorem witness_BusyChangesOnlyAtAcceptanceCompletionReset :
    ∃ t, step (idleWriting 0x010 0x2) = .next t ∧ (hostRead 0x014 t).getLsbD 0 = true := ⟨_, rfl, by decide⟩

theorem witness_DoneChangesAsListed :
    ∃ t, step (flying 0x0 [.engine]) = .next t ∧ (hostRead 0x014 t).getLsbD 1 = true := ⟨_, rfl, by decide⟩

theorem witness_OverrunIsSticky :
    ∃ t, step (busyWriting 0x2 0x200 0) = .next t ∧ (hostRead 0x014 t).getLsbD 3 = true := ⟨_, rfl, by decide⟩

theorem witness_LastCmdHoldsTheLastAcceptedWord :
    (∃ t, step (facing [.rst true]) = .next t) ∧ ResetActs (facing [.rst true]) ∧
    (∃ t, step (idleWriting 0x010 0x2) = .next t) ∧ ¬ ResetActs (idleWriting 0x010 0x2) ∧
    HostWrites (idleWriting 0x010 0x2) 0x010 0x2 ∧
    (idleWriting 0x010 0x2).engine = .idle ∧
    (∃ t, step (busyWriting 0x2 0x010 0x3) = .next t) ∧ (busyWriting 0x2 0x010 0x3).engine ≠ .idle :=
  ⟨⟨_, rfl⟩, .inr rfl, ⟨_, rfl⟩, witness_steps.2.2.2.2.2.1, idleWriting_hostWrites _ _, rfl,
    ⟨_, rfl⟩, by decide⟩

theorem witness_ErrcodeIsKeptUntilTheNextAcceptance :
    (∃ t, step (facing [.rst true]) = .next t) ∧ ResetActs (facing [.rst true]) ∧
    (∃ t, step (idleWriting 0x010 0x2) = .next t) ∧
    ((idleWriting 0x010 0x2).engine = .idle ∧ ∃ x, HostWrites (idleWriting 0x010 0x2) 0x010 x) ∧
    (∃ t, step State.reset = .next t) ∧ ¬ ResetActs State.reset ∧ State.reset.engine = .idle ∧
    (∀ off x, ¬ HostWrites State.reset off x) :=
  ⟨⟨_, rfl⟩, .inr rfl, ⟨_, rfl⟩, ⟨rfl, 0x2, idleWriting_hostWrites _ _⟩, ⟨_, rfl⟩,
    by rintro (h | h) <;> simp [State.reset] at h, rfl, fun off x h => by have := h.2; simp [State.reset] at this⟩

theorem witness_InterruptFollowsDoneWhileEnabled :
    (EngineHasTurn (flying 0x0 [.engine]) ∧ (flying 0x0 [.engine]).engine ≠ .idle) ∧
    (HostWrites (idleWriting 0x010 0) 0x010 0 ∧ (idleWriting 0x010 0).engine = .idle) ∧
    (HostWrites (idleWriting 0x014 2) 0x014 2 ∧ (2 : Word).getLsbD 1 = true) ∧
    (HostWrites (idleWriting 0x018 0) 0x018 0 ∧ (0 : Word).getLsbD 0 = false) ∧ ResetActs (facing [.rst true]) :=
  ⟨⟨flying_engineHasTurn_drawn _ _, by decide⟩, ⟨idleWriting_hostWrites _ _, rfl⟩,
    ⟨idleWriting_hostWrites _ _, by decide⟩, ⟨idleWriting_hostWrites _ _, by decide⟩, .inr rfl⟩

theorem witness_OperandsAndResultsAreFixedWhileBusy :
    ∃ t, step (busyWriting 0x2 0x00C 1) = .next t ∧ (busyWriting 0x2 0x00C 1).engine = .busy 0x2 ∧
      t.engine = .busy 0x2 := ⟨_, rfl, rfl, rfl⟩

theorem witness_RstHoldsTheBlockAtReset :
    (facing [.rst true]).agenda.head? = some (.rst true) ∧
    ({ flying 0x2 [.engine] with rst := true }).hostsKeepToThePort = true ∧
    ({ flying 0x2 [.engine] with rst := true }).agenda.head? ≠ some (.rst false) ∧
    ({ flying 0x2 [.rst false] with rst := true }).agenda.head? = some (.rst false) := by decide

theorem witness_CommandsBeforeConfiguration :
    ¬ legalDim { State.reset with dimN := 7 } ∧ Instr.det ∈ matrixCommands ∧ State.reset.scalarIn = 0 := by decide

/-- A legal dimension: the smallest and the largest. -/
theorem witness_legalDim :
    legalDim goodKey ∧ legalDim { State.reset with dimN := 1 } ∧ legalDim { State.reset with dimN := 6 } := by decide

theorem witness_MulvWritesTheReducedProduct : legalDim goodKey := witness_legalDim.1
theorem witness_MulvRWritesTheReducedProduct : legalDim { goodKey with r := fileOf [[15, 17], [20, 9]] } := by decide
theorem witness_DetWritesTheExactDeterminant : legalDim goodKey := witness_legalDim.1
theorem witness_AdjWritesTheReducedAdjugate : legalDim badKey ∧ ∃ i : Fin (dimN badKey), i.val = 1 :=
  ⟨by decide, ⟨⟨1, by decide⟩, rfl⟩⟩

theorem witness_ModinvWritesTheInverseOrFails :
    Int.gcd ((hostRead 0x024 (scalar 0xFFFFFFFD)).toInt % 26) 26 = 1 ∧
    Int.gcd ((hostRead 0x024 (scalar 26)).toInt % 26) 26 ≠ 1 := by decide

/-- `det [[3,3],[2,5]] = 9`, source S7. -/
theorem witness_MatinvWritesTheInverse :
    legalDim goodKey ∧ Int.gcd ((kMatrix goodKey (dimN goodKey)).det % 26) 26 = 1 := by
  have h : dimN goodKey = 2 := by decide
  refine ⟨witness_legalDim.1, ?_⟩
  rw [h, Matrix.det_fin_two]; decide

/-- `det [[1,0],[0,2]] = 2`, source S6. -/
theorem witness_MatinvFailsOnANonInvertibleKey :
    legalDim badKey ∧ Int.gcd ((kMatrix badKey (dimN badKey)).det % 26) 26 ≠ 1 := by
  have h : dimN badKey = 2 := by decide
  refine ⟨by decide, ?_⟩
  rw [h, Matrix.det_fin_two]; decide

theorem witness_IllegalDimensionIsReported :
    ¬ legalDim State.reset ∧ ¬ legalDim { State.reset with dimN := 7 } ∧ Instr.mulv ∈ matrixCommands ∧
    Instr.canon ∉ matrixCommands ∧ State.reset.errcode = .none := by decide

/-- One word for each clause; the last is legal and its operands are too. -/
theorem witness_EachCommandReportsTheFirstErrorThatApplies :
    (flying 0x7 []).engine = .busy 0x7 ∧ EngineHasTurn (flying 0x7 []) ∧ (flying 0x7 []).errcode = .none ∧
    (flying 0x7 []).errInfo = 0 ∧ (0x7 : Word) ∉ commandWords ∧
    (EngineHasTurn (flying 0x6 []) ∧ ¬ legalDim (flying 0x6 [])) ∧
    (EngineHasTurn (flying 0x5 []) ∧ Int.gcd ((hostRead 0x024 (flying 0x5 [])).toInt % 26) 26 ≠ 1) ∧
    (EngineHasTurn { badKey with engine := .busy 0x6 } ∧ legalDim { badKey with engine := .busy 0x6 } ∧
      Int.gcd ((kMatrix badKey (dimN badKey)).det % 26) 26 ≠ 1) ∧
    EngineHasTurn (flying 0x0 []) :=
  ⟨rfl, flying_engineHasTurn _, rfl, rfl, by decide, ⟨flying_engineHasTurn _, by decide⟩,
    ⟨flying_engineHasTurn _, by decide⟩,
    ⟨And.intro rfl (.inl rfl), by decide, witness_MatinvFailsOnANonInvertibleKey.2⟩, flying_engineHasTurn _⟩

theorem witness_ErrorsWriteNoResult :
    State.reset.errcode = .none ∧ ∃ t, exec .matinv State.reset = .next t ∧ t.errcode ≠ .none :=
  ⟨rfl, _, rfl, by decide⟩

/-- Every command answers a next state on a key with an inverse. -/
theorem witness_frames (i : Instr) : ∃ t, exec i goodKey = .next t := ⟨_, exec_eq_complete i goodKey⟩

theorem witness_ScalarCommandsFrame : ∃ t, exec .canon goodKey = .next t := witness_frames _
theorem witness_MultiplyCommandsFrame : ∃ t, exec .mulvR goodKey = .next t := witness_frames _
theorem witness_DetFrame : ∃ t, exec .det goodKey = .next t := witness_frames _
theorem witness_MatrixResultCommandsFrame : ∃ t, exec .matinv goodKey = .next t := witness_frames _
theorem witness_NopFrame : ∃ t, exec .nop goodKey = .next t := witness_frames _

theorem witness_ResultsAreResidues :
    goodKey.errcode = .none ∧ ∃ t, exec .matinv goodKey = .next t ∧ t.errcode = .none :=
  ⟨rfl, _, rfl, by decide⟩

/-- Two states that differ outside what MULV reads: an element beyond `N`, an old result and a flag. -/
theorem witness_OutcomeDependsOnlyOnTheOperandsRead :
    let s := goodKey
    let s' := { keyed 2 [[3, 3, 99], [2, 5], [99]] [7, 8, 99] with r := fileOf [[1]], ovr := true }
    s ≠ s' ∧ s.errcode = .none ∧ s.errInfo = 0 ∧ s'.errcode = .none ∧ s'.errInfo = 0 ∧ s'.nmax = s.nmax ∧
    s'.dimN = s.dimN ∧ (∀ a < 2, ∀ b < 2, matEntry s'.k a b = matEntry s.k a b) ∧
    (∀ a < 2, vecEntry s'.v a = vecEntry s.v a) ∧ dimN s = 2 ∧
    (∃ t, exec .mulv s = .next t) ∧ ∃ t, exec .mulv s' = .next t := by
  refine ⟨by decide, rfl, rfl, rfl, rfl, rfl, rfl, by decide, by decide, rfl, ?_⟩
  exact ⟨⟨_, exec_eq_complete .mulv _⟩, _, exec_eq_complete .mulv _⟩

theorem witness_LaplaceExpansionIsTheDeterminant : 1 ≤ 7 := by decide

theorem witness_DeterminantFitsIn256Bits :
    ∀ i j, i < 7 → j < 7 → -2 ^ 31 ≤ (fun _ _ => (-2 ^ 31 : Int) : IntMat) i j ∧
      (fun _ _ => (-2 ^ 31 : Int) : IntMat) i j ≤ 2 ^ 31 - 1 := by
  intro _ _ _ _; norm_num

theorem witness_CofactorIdentity : 1 ≤ 1 ∧ 0 < 1 := by decide

theorem witness_InverseIdentity :
    goodKey.errcode = .none ∧ ∃ t, exec .matinv goodKey = .next t ∧ t.errcode = .none ∧ 1 < dimN t :=
  ⟨rfl, _, rfl, by decide, by decide⟩

/-- Source S7: `[7,8]` encrypts to `[19,2]`. -/
theorem witness_EncryptDecryptRoundTrip :
    goodKey.errcode = .none ∧ ∃ t u x, exec .matinv goodKey = .next t ∧ t.errcode = .none ∧
      exec .mulv t = .next u ∧
      exec .mulvR ((List.range (dimN u)).foldl
        (fun y j => hostWrite (offset (0x200 + 4 * j)) (wReg u j) y) u) = .next x ∧ 1 < dimN goodKey :=
  ⟨rfl, _, _, _, rfl, by decide, rfl, rfl, by decide⟩

/-- MULV in flight, with a host about to change the key. -/
theorem witness_EveryStepKeepsTheInvariant :
    (busyWriting 0x2 0x100 9).Inv ∧ ∃ t, step (busyWriting 0x2 0x100 9) = .next t := by
  refine ⟨⟨⟨fun j _ => ?_, fun i j _ => ?_⟩, ⟨by decide, by decide, fun i => ?_⟩, fun c h => ?_, rfl, fun h => ?_⟩,
    ⟨_, rfl⟩⟩
  · simp [busyWriting, flying, State.reset]
  · simp [busyWriting, flying, State.reset]
  · simp [busyWriting, flying, State.reset]
  · simp [busyWriting, flying, State.reset] at h ⊢; exact h
  · simp [busyWriting, flying, State.reset] at h

end Sys2Proof.Tests
end

section
/-! SUPPORT. The register map, read backwards: which offsets reach a register, and what a register's
place in the window says of its indices. -/

namespace Sys2Proof.Machine

open Sys2Proof.Spec

/-- The indices of an array register are below `NMAX` (R40). -/
def Reg.InRange (n : Nat) : Reg → Prop
  | .k i j | .r i j => i.val < n ∧ j.val < n
  | .v j | .w j => j.val < n
  | _ => True

/-- The registers whose write is dropped while the engine is BUSY, `CMD` apart (R102). -/
def Reg.IsOperand : Reg → Prop
  | .dim | .scalarIn | .k _ _ | .v _ | .r _ _ => True
  | _ => False

theorem vectorReg_inRange {n j : Nat} {f : Fin 8 → Reg} (hf : ∀ j : Fin 8, j.val < n → (f j).InRange n) :
    (vectorReg n j f).InRange n := by
  unfold vectorReg
  split
  next hj => exact hf _ (Nat.lt_of_le_of_lt (Nat.mod_le j 8) hj)
  next => trivial

theorem matrixReg_inRange {n x : Nat} {f : Fin 8 → Fin 8 → Reg}
    (hf : ∀ i j : Fin 8, i.val < n → j.val < n → (f i j).InRange n) : (matrixReg n x f).InRange n := by
  unfold matrixReg
  split
  next hi => exact vectorReg_inRange fun j hj => hf _ j (Nat.lt_of_le_of_lt (Nat.mod_le _ 8) hi) hj
  next => trivial

theorem controlReg_inRange (n x : Nat) : (controlReg x).InRange n := by
  unfold controlReg
  split <;> trivial

theorem slotReg_inRange (n x : Nat) : (slotReg n x).InRange n := by
  unfold slotReg
  split_ifs
  · exact controlReg_inRange n x
  · trivial
  · trivial
  · exact matrixReg_inRange fun i j hi hj => ⟨hi, hj⟩
  · exact vectorReg_inRange fun j hj => hj
  · trivial
  · exact vectorReg_inRange fun j hj => hj
  · trivial
  · exact matrixReg_inRange fun i j hi hj => ⟨hi, hj⟩
  · trivial

/-- An operand register stands at an offset of R102. -/
theorem operandOffset_of_isOperand {n : Nat} {r : Reg} (h : r.IsOperand) (hr : r.InRange n) :
    OperandOffset n (4 * r.slot) := by
  cases r with
  | dim => exact .inl rfl
  | scalarIn => exact .inr (.inl rfl)
  | k i j => exact .inr (.inr (.inl ⟨i, j, hr.1, hr.2, by simp only [Reg.slot]; omega⟩))
  | v j => exact .inr (.inr (.inr (.inl ⟨j, hr, by simp only [Reg.slot]; omega⟩)))
  | r i j => exact .inr (.inr (.inr (.inr ⟨i, j, hr.1, hr.2, by simp only [Reg.slot]; omega⟩)))
  | _ => exact h.elim

/-- Every register with its indices below `NMAX` stands at an offset of the table of R22. -/
theorem listedOffset_of_ne_reserved {n : Nat} {r : Reg} (h : r ≠ .reserved) (hr : r.InRange n) :
    ListedOffset n (4 * r.slot) := by
  have operand (ho : r.IsOperand) : ListedOffset n (4 * r.slot) := .inl (operandOffset_of_isOperand ho hr)
  cases r with
  | dim | scalarIn | k | v | r => exact operand trivial
  | id | version | param | errInfo | lastCmd | scalarOut | detRes =>
    exact .inr (.inl (.inl (by simp [Reg.slot])))
  | detRaw x => exact .inr (.inl (.inr (.inl ⟨x, x.isLt, by simp only [Reg.slot]; omega⟩)))
  | w i => exact .inr (.inl (.inr (.inr ⟨i, hr, by simp only [Reg.slot]; omega⟩)))
  | cmd => exact .inr (.inr (.inl rfl))
  | status => exact .inr (.inr (.inr (.inl rfl)))
  | irqEn => exact .inr (.inr (.inr (.inr rfl)))
  | reserved => exact absurd rfl h

theorem wordOffset_eq (off : Offset) : wordOffset off = 4 * (off.toNat / 4) := by
  have := Nat.div_add_mod off.toNat 4
  simp only [wordOffset]; omega

/-- An offset that reaches a register is an offset of that register's word. -/
theorem wordOffset_eq_slot {n : Nat} {off : Offset} (h : regAt n off ≠ .reserved) :
    wordOffset off = 4 * (regAt n off).slot := by
  rw [wordOffset_eq, regAt, (slot_slotReg n _).resolve_left h]

/-- R40: what the table of R22 does not list is reserved. -/
theorem regAt_of_not_listed {n : Nat} {off : Offset} (h : ¬ ListedOffset n (wordOffset off)) :
    regAt n off = .reserved := by
  by_contra hr
  exact h (wordOffset_eq_slot hr ▸ listedOffset_of_ne_reserved hr (slotReg_inRange n _))

/-- A register has only the byte offsets of one word. -/
theorem regAt_eq_iff {n : Nat} {a : Offset} {r : Reg} (ha : regAt n a = r) (hr : r ≠ .reserved) (off : Offset) :
    regAt n off = r ↔ off.toNat / 4 = a.toNat / 4 := by
  refine ⟨fun h => ?_, fun h => (regAt_congr n h).trans ha⟩
  by_contra hne
  exact hr (h ▸ regAt_ne hne (h.trans ha.symm))

theorem regAt_eq_iff_wordOffset {n : Nat} {a : Offset} {r : Reg} (ha : regAt n a = r) (hr : r ≠ .reserved)
    (h4 : a.toNat % 4 = 0) (off : Offset) : regAt n off = r ↔ wordOffset off = a.toNat := by
  rw [regAt_eq_iff ha hr, wordOffset_eq]; omega

/-- Of those byte offsets one is a word offset. -/
theorem regAt_eq_iff_of_aligned {n : Nat} {a : Offset} {r : Reg} (ha : regAt n a = r) (hr : r ≠ .reserved)
    (h4 : a.toNat % 4 = 0) {off : Offset} (hoff : off.toNat % 4 = 0) : regAt n off = r ↔ off = a := by
  rw [regAt_eq_iff ha hr, BitVec.toNat_eq]; omega

theorem regAt_eq_cmd_iff (n : Nat) {off : Offset} (h : off.toNat % 4 = 0) : regAt n off = .cmd ↔ off = 0x010 :=
  regAt_eq_iff_of_aligned (regAt_cmd n) (by decide) rfl h

theorem regAt_eq_status_iff (n : Nat) {off : Offset} (h : off.toNat % 4 = 0) :
    regAt n off = .status ↔ off = 0x014 :=
  regAt_eq_iff_of_aligned (regAt_status n) (by decide) rfl h

/-- At an offset of R102 stands an operand register. -/
theorem isOperand_of_operandOffset {n : Nat} (hn : n ≤ 7) {off : Offset} (h : OperandOffset n off.toNat) :
    (regAt n off).IsOperand := by
  have at_number {a : Nat} {r : Reg} (ha : off.toNat = a) (hreg : regAt n (BitVec.ofNat 12 a) = r)
      (hr : r.IsOperand) : (regAt n off).IsOperand := by
    rwa [show off = BitVec.ofNat 12 a by rw [← ha, BitVec.ofNat_toNat, BitVec.setWidth_eq], hreg]
  obtain ha | ha | ⟨i, j, hi, hj, ha⟩ | ⟨j, hj, ha⟩ | ⟨i, j, hi, hj, ha⟩ := h
  · exact at_number ha (regAt_dim n) trivial
  · exact at_number ha (regAt_scalarIn n) trivial
  · exact at_number ha (regAt_k hn hi hj) trivial
  · exact at_number ha (regAt_v hn hj) trivial
  · exact at_number ha (regAt_r hn hi hj) trivial

/-- R102: the word offsets that reach an operand register. -/
theorem isOperand_regAt_iff {n : Nat} (hn : n ≤ 7) {off : Offset} (h4 : off.toNat % 4 = 0) :
    (regAt n off).IsOperand ↔ OperandOffset n off.toNat := by
  refine ⟨fun h => ?_, isOperand_of_operandOffset hn⟩
  have hne : regAt n off ≠ .reserved := fun hr => by rw [hr] at h; exact h
  have hw : off.toNat = 4 * (regAt n off).slot := by
    have := wordOffset_eq_slot hne
    simp only [wordOffset] at this; omega
  rw [hw]
  exact operandOffset_of_isOperand h (slotReg_inRange n _)

/-! ## The words `STATUS`, `IRQ_EN` and `PARAM`, field by field -/

theorem statusWord_busy (s : State) : (statusWord s).getLsbD 0 = s.engine.isBusy := by
  simp only [statusWord, bit, BitVec.getLsbD_append, BitVec.getLsbD_ofBool]; simp

theorem statusWord_done (s : State) : (statusWord s).getLsbD 1 = s.done := by
  simp only [statusWord, bit, BitVec.getLsbD_append, BitVec.getLsbD_ofBool]; simp

theorem statusWord_err (s : State) : (statusWord s).getLsbD 2 = errFlag s := by
  simp only [statusWord, bit, BitVec.getLsbD_append, BitVec.getLsbD_ofBool]; simp

theorem statusWord_ovr (s : State) : (statusWord s).getLsbD 3 = s.ovr := by
  simp only [statusWord, bit, BitVec.getLsbD_append, BitVec.getLsbD_ofBool]; simp

/-- `STATUS` without its four flag bits. -/
theorem statusWord_extract_of_le (s : State) {start len : Nat} (h : 4 ≤ start) :
    (statusWord s).extractLsb' start len =
      ((0 : BitVec 20) ++ s.errcode.code ++ (0 : BitVec 4)).extractLsb' (start - 4) len := by
  simp only [statusWord]
  repeat rw [BitVec.extractLsb'_append_eq_of_le (by omega)]
  rfl

theorem statusWord_reserved_low (s : State) : (statusWord s).extractLsb' 4 4 = 0 := by
  rw [statusWord_extract_of_le s (by decide)]
  exact BitVec.extractLsb'_append_eq_right

theorem statusWord_errcode (s : State) : (statusWord s).extractLsb' 8 4 = s.errcode.code := by
  rw [statusWord_extract_of_le s (by decide), BitVec.extractLsb'_append_eq_of_le (by decide)]
  exact BitVec.extractLsb'_append_eq_right

theorem statusWord_reserved_high (s : State) : (statusWord s).extractLsb' 12 20 = 0 := by
  rw [statusWord_extract_of_le s (by decide), BitVec.extractLsb'_append_eq_of_le (by decide)]
  exact BitVec.extractLsb'_append_eq_left

theorem irqEnWord_doneIe (s : State) : (irqEnWord s).getLsbD 0 = s.doneIe := by
  simp [irqEnWord, bit]

theorem paramWord_nmax (s : State) : (paramWord s).extractLsb' 0 4 = BitVec.ofNat 4 s.nmax.val :=
  BitVec.extractLsb'_append_eq_right

theorem paramWord_reserved_low (s : State) : (paramWord s).extractLsb' 4 4 = 0 := by
  simp only [paramWord]
  rw [BitVec.extractLsb'_append_eq_of_le (by decide)]
  exact BitVec.extractLsb'_append_eq_right

theorem paramWord_modulus (s : State) : (paramWord s).extractLsb' 8 8 = 0x1A := by
  simp only [paramWord]
  rw [BitVec.extractLsb'_append_eq_of_le (by decide), BitVec.extractLsb'_append_eq_of_le (by decide)]
  exact BitVec.extractLsb'_append_eq_right

theorem paramWord_reserved_high (s : State) : (paramWord s).extractLsb' 16 16 = 0 := by
  simp only [paramWord]
  rw [BitVec.extractLsb'_append_eq_of_le (by decide), BitVec.extractLsb'_append_eq_of_le (by decide)]
  exact BitVec.extractLsb'_append_eq_left

end Sys2Proof.Machine
end

section
/-! SUPPORT. What a write to a register does to each field that the flags and the invariant speak of. -/

namespace Sys2Proof.Machine

@[simp] theorem isBusy_eq_false_iff (e : Engine) : e.isBusy = false ↔ e = .idle := by
  cases e <;> simp [Engine.isBusy]

@[simp] theorem isBusy_eq_true_iff (e : Engine) : e.isBusy = true ↔ e ≠ .idle := by
  cases e <;> simp [Engine.isBusy]

theorem unlessBusy_of_idle (f : State → State) {s : State} (h : s.engine = .idle) : unlessBusy f s = f s := by
  simp [unlessBusy, h]

section
variable (x : Word) (s : State) (r : Reg)

@[simp] theorem regWrite_nmax : (regWrite x s r).nmax = s.nmax := by
  cases r <;> simp [regWrite, unlessBusy, apply_ite]

/-- `DONE` falls by acceptance and by a write of its bit (R30). -/
theorem regWrite_done_iff : (regWrite x s r).done = true ↔
    s.done = true ∧ ¬ ((r = .cmd ∧ s.engine = .idle) ∨ (r = .status ∧ x.getLsbD 1 = true)) := by
  cases r with
  | cmd => by_cases hi : s.engine = .idle <;> simp [regWrite, unlessBusy, hi]
  | _ => simp [regWrite, unlessBusy, apply_ite]

/-- `OVR` falls by a write of its bit and rises by a dropped write (R32). -/
theorem regWrite_ovr_iff : (regWrite x s r).ovr = true ↔
    (s.ovr = true ∧ ¬ (r = .status ∧ x.getLsbD 3 = true)) ∨
      (s.engine ≠ .idle ∧ (r = .cmd ∨ r.IsOperand)) := by
  by_cases hi : s.engine = .idle
  · cases r <;> simp [regWrite, unlessBusy, hi]
  · cases r <;> simp [regWrite, unlessBusy, hi, Reg.IsOperand]

end

/-! ## Acceptance, and what every other write keeps -/

theorem regWrite_cmd_of_idle {x : Word} {s : State} (h : s.engine = .idle) :
    regWrite x s .cmd = acceptCommand x s :=
  unlessBusy_of_idle _ h

/-- A write that is no acceptance keeps what acceptance sets, `DONE` apart (R35, R31, R34). -/
theorem regWrite_of_not_accepted {x : Word} {s : State} {r : Reg} (h : ¬ (r = .cmd ∧ s.engine = .idle)) :
    (regWrite x s r).engine = s.engine ∧ (regWrite x s r).lastCmd = s.lastCmd ∧
      (regWrite x s r).errcode = s.errcode ∧ (regWrite x s r).errInfo = s.errInfo := by
  cases r with
  | cmd =>
    have hbusy : s.engine ≠ .idle := fun hi => h ⟨rfl, hi⟩
    simp [regWrite, unlessBusy, hbusy]
  | _ => simp [regWrite, unlessBusy, apply_ite]

end Sys2Proof.Machine
end

section
/-! SUPPORT. What one step can do, said once: every statement about a step goes by the cases of `StepEffect`. -/

namespace Sys2Proof.Machine

open Sys2Proof.Spec

/-- The event the next step takes: the first of the agenda, or the engine's turn when there is none. -/
def nextEvent (s : State) : Event := s.agenda.head?.getD .engine

/-- The state with that event taken off the agenda. -/
def dequeue (s : State) : State := withAgenda s.agenda.tail s

theorem engineHasTurn_iff (s : State) : EngineHasTurn s ↔ s.rst = false ∧ nextEvent s = .engine := by
  cases h : s.agenda <;> simp [EngineHasTurn, nextEvent, h]

theorem hostHasTurn_iff (tr : Transaction) (s : State) :
    HostHasTurn tr s ↔ s.rst = false ∧ nextEvent s = .host tr := by
  cases h : s.agenda <;> simp [HostHasTurn, nextEvent, h]

theorem hostWrites_iff (s : State) (off : Offset) (x : Word) :
    HostWrites s off x ↔ s.rst = false ∧ nextEvent s = .host (.write off 4 x) :=
  hostHasTurn_iff _ s

theorem resetActs_iff (s : State) : ResetActs s ↔ s.rst = true ∨ nextEvent s = .rst true := by
  cases h : s.agenda <;> simp [ResetActs, nextEvent, h]

theorem step_eq_takeEvent (s : State) : step s = takeEvent (nextEvent s) (dequeue s) := step_eq s

/-- How the word `c` in flight ends: the outcome of the command it decodes to, or IllegalCommand (R104). -/
def wordOutcome (c : Word) (s : State) : CmdOutcome :=
  match decode c with
  | .ok i => outcomeOf i s
  | .error _ => .error .illegalCommand c

theorem engineTurn_of_idle {s : State} (h : s.engine = .idle) : engineTurn s = .next s := by
  simp [engineTurn, h]

theorem engineTurn_of_busy {s : State} {c : Word} (h : s.engine = .busy c) :
    engineTurn s = .next (complete (wordOutcome c s) s) := by
  cases hd : decode c with
  | ok i => simp [engineTurn, wordOutcome, h, hd, exec_eq_complete]
  | error e => simp [engineTurn, wordOutcome, h, hd, execIllegal]

/-- Everything a step from `s` can lead to. -/
inductive StepEffect (s : State) : State → Prop
  /-- Reset acts; `rst` is low after it only when it falls (R210). -/
  | reset (h : ResetActs s) : StepEffect s (resetBlock (nextEvent s != .rst false) (dequeue s))
  /-- `rst` is low and stays low. -/
  | rstLow (hr : s.rst = false) (he : nextEvent s = .rst false) : StepEffect s (dequeue s)
  /-- The engine has its turn and is IDLE (R212). -/
  | idle (hr : s.rst = false) (he : nextEvent s = .engine) (hi : s.engine = .idle) : StepEffect s (dequeue s)
  /-- The command in flight completes (R103). -/
  | completion (c : Word) (hr : s.rst = false) (he : nextEvent s = .engine) (hc : s.engine = .busy c) :
      StepEffect s (complete (wordOutcome c (dequeue s)) (dequeue s))
  /-- The host reads (R65). -/
  | read (off : Offset) (hr : s.rst = false) (he : nextEvent s = .host (.read off 4))
      (h4 : off.toNat % 4 = 0) : StepEffect s { dequeue s with rdata := hostRead off s }
  /-- The host writes a register (R65). -/
  | write (off : Offset) (x : Word) (hr : s.rst = false) (he : nextEvent s = .host (.write off 4 x))
      (h4 : off.toNat % 4 = 0) : StepEffect s (regWrite x (dequeue s) (regAt s.nmax.val off))

theorem stepEffect_of_perform {s : State} {tr : Transaction} (hr : s.rst = false) (he : nextEvent s = .host tr)
    (hw : tr.wellFormed = true) : StepEffect s (perform tr (dequeue s)) := by
  obtain ⟨hs, h4⟩ := (wellFormed_iff tr).mp hw
  cases tr with
  | read off size =>
    cases (hs : size = 4)
    exact .read off hr he h4
  | write off size x =>
    cases (hs : size = 4)
    exact .write off x hr he h4

theorem stepEffect_of_engineTurn {s t : State} (hr : s.rst = false) (he : nextEvent s = .engine)
    (h : engineTurn (dequeue s) = .next t) : StepEffect s t := by
  cases hc : s.engine with
  | idle =>
    rw [engineTurn_of_idle (s := dequeue s) hc] at h
    cases h
    exact .idle hr he hc
  | busy c =>
    rw [engineTurn_of_busy (s := dequeue s) hc] at h
    cases h
    exact .completion c hr he hc

/-- Every step that answers a next state is one of the cases. -/
theorem stepEffect_of_step {s t : State} (h : step s = .next t) : StepEffect s t := by
  rw [step_eq_takeEvent] at h
  rcases takeEvent_cases h with
    ⟨hr, tr, he, hw, rfl⟩ | ⟨hr, he, ht⟩ | ⟨hr, he, rfl⟩ | ⟨hc, rfl⟩ | ⟨hr, he, rfl⟩
  · exact stepEffect_of_perform hr he hw
  · exact stepEffect_of_engineTurn hr he ht
  · exact .rstLow hr he
  · have hlevel : (nextEvent s != .rst false) = true := by
      obtain ⟨-, hne⟩ | he := hc
      · simpa using hne
      · simp [he]
    exact hlevel ▸ .reset ((resetActs_iff s).mpr (hc.imp_left And.left))
  · have hlevel : (nextEvent s != .rst false) = false := by simp [he]
    exact hlevel ▸ .reset (.inl hr)

/-! ## The fields of a dequeued state -/

@[simp] theorem dequeue_nmax (s : State) : (dequeue s).nmax = s.nmax := rfl
@[simp] theorem dequeue_done (s : State) : (dequeue s).done = s.done := rfl
@[simp] theorem dequeue_ovr (s : State) : (dequeue s).ovr = s.ovr := rfl
@[simp] theorem dequeue_errcode (s : State) : (dequeue s).errcode = s.errcode := rfl
@[simp] theorem dequeue_doneIe (s : State) : (dequeue s).doneIe = s.doneIe := rfl
@[simp] theorem dequeue_errInfo (s : State) : (dequeue s).errInfo = s.errInfo := rfl
@[simp] theorem dequeue_lastCmd (s : State) : (dequeue s).lastCmd = s.lastCmd := rfl
@[simp] theorem dequeue_engine (s : State) : (dequeue s).engine = s.engine := rfl
@[simp] theorem dequeue_rst (s : State) : (dequeue s).rst = s.rst := rfl

/-! ## What the host reads of the flags and of `LAST_CMD` -/

theorem hostRead_status_busy (s : State) : (hostRead 0x014 s).getLsbD 0 = s.engine.isBusy := statusWord_busy s
theorem hostRead_status_done (s : State) : (hostRead 0x014 s).getLsbD 1 = s.done := statusWord_done s
theorem hostRead_status_ovr (s : State) : (hostRead 0x014 s).getLsbD 3 = s.ovr := statusWord_ovr s
theorem hostRead_irqEn_doneIe (s : State) : (hostRead 0x018 s).getLsbD 0 = s.doneIe := irqEnWord_doneIe s
theorem hostRead_lastCmd (s : State) : hostRead 0x020 s = s.lastCmd := rfl

/-! ## The flags after a step -/

/-- BUSY after a step (R29). -/
theorem engine_ne_idle_of_step {s t : State} (h : step s = .next t) :
    t.engine ≠ .idle ↔ ¬ ResetActs s ∧
      ((s.engine ≠ .idle ∧ ¬ EngineHasTurn s) ∨ (s.engine = .idle ∧ ∃ x, HostWrites s 0x010 x)) := by
  simp only [engineHasTurn_iff, hostWrites_iff]
  cases stepEffect_of_step h with
  | reset hreset => simp [hreset, State.reset]
  | rstLow hr he | idle hr he hi | read off hr he => simp [resetActs_iff, *]
  | completion c hr he hc => simp [resetActs_iff, *]
  | write off x hr he h4 =>
    by_cases ha : regAt s.nmax.val off = .cmd ∧ s.engine = .idle
    · simp [resetActs_iff, hr, he, ha, regWrite_cmd_of_idle (s := dequeue s) ha.2, (regAt_eq_cmd_iff _ h4).mp ha.1]
    · rw [(regWrite_of_not_accepted (s := dequeue s) ha).1, dequeue_engine]
      rw [regAt_eq_cmd_iff _ h4] at ha
      have hbusy : s.engine = .idle → off = 0x010 → s.engine ≠ .idle := fun hi hc => absurd ⟨hc, hi⟩ ha
      simpa [resetActs_iff, hr, he] using hbusy

/-- DONE after a step (R30). -/
theorem done_of_step {s t : State} (h : step s = .next t) :
    t.done = true ↔ ¬ ResetActs s ∧
      ((s.engine ≠ .idle ∧ EngineHasTurn s) ∨
        (s.done = true ∧ ¬ ∃ x, (HostWrites s 0x010 x ∧ s.engine = .idle) ∨
          (HostWrites s 0x014 x ∧ x.getLsbD 1 = true))) := by
  simp only [engineHasTurn_iff, hostWrites_iff]
  cases stepEffect_of_step h with
  | reset hreset => simp [hreset, State.reset]
  | rstLow hr he | idle hr he hi | read off hr he => simp [resetActs_iff, *]
  | completion c hr he hc => simp [resetActs_iff, *]
  | write off x hr he h4 =>
    rw [regWrite_done_iff, regAt_eq_cmd_iff _ h4, regAt_eq_status_iff _ h4]
    simp [resetActs_iff, hr, he, forall_and]

/-- OVR after a step (R32). -/
theorem ovr_of_step {s t : State} (h : step s = .next t) :
    t.ovr = true ↔ ¬ ResetActs s ∧
      ((s.ovr = true ∧ ¬ ∃ x, HostWrites s 0x014 x ∧ x.getLsbD 3 = true) ∨
        (s.engine ≠ .idle ∧ ∃ off x, HostWrites s off x ∧
          (off = 0x010 ∨ OperandOffset s.nmax.val off.toNat))) := by
  simp only [hostWrites_iff]
  cases stepEffect_of_step h with
  | reset hreset => simp [hreset, State.reset]
  | rstLow hr he | idle hr he hi | read off hr he | completion c hr he hc => simp [resetActs_iff, *]
  | write off x hr he h4 =>
    rw [regWrite_ovr_iff, regAt_eq_cmd_iff _ h4, regAt_eq_status_iff _ h4,
      isOperand_regAt_iff s.nmax.property.2 h4]
    simp [resetActs_iff, hr, he]

/-! ## The step, where one event decides it -/

theorem step_of_hostWrites {s : State} {off : Offset} {x : Word} (h : HostWrites s off x)
    (h4 : off.toNat % 4 = 0) : step s = .next (hostWrite off x (dequeue s)) := by
  obtain ⟨hr, he⟩ := (hostWrites_iff s off x).mp h
  simp [step_eq_takeEvent, he, takeEvent, hostTurn, isWordOffset, h4, hr, perform]

theorem step_of_acceptance {s : State} {c : Word} (h : HostWrites s 0x010 c) (hi : s.engine = .idle) :
    step s = .next (acceptCommand c (dequeue s)) :=
  (step_of_hostWrites h rfl).trans (congrArg _ (regWrite_cmd_of_idle (s := dequeue s) hi))

theorem step_of_completion {s : State} {c : Word} (h : EngineHasTurn s) (hc : s.engine = .busy c) :
    step s = .next (complete (wordOutcome c (dequeue s)) (dequeue s)) := by
  obtain ⟨hr, he⟩ := (engineHasTurn_iff s).mp h
  simp [step_eq_takeEvent, he, takeEvent, hr, engineTurn_of_busy (s := dequeue s) hc]

theorem eq_resetBlock_of_step {s t : State} (h : step s = .next t) (hreset : ResetActs s) :
    t = resetBlock (nextEvent s != .rst false) (dequeue s) := by
  cases stepEffect_of_step h with
  | reset _ => rfl
  | rstLow hr he | idle hr he | completion c hr he | read off hr he | write off x hr he =>
    simp [resetActs_iff, hr, he] at hreset

/-- A step that is neither reset nor acceptance keeps `LAST_CMD`, and the error too unless a command
completes (R35, R31, R34). -/
theorem kept_of_step {s t : State} (h : step s = .next t) (hreset : ¬ ResetActs s)
    (ha : ¬ ∃ c, HostWrites s 0x010 c ∧ s.engine = .idle) :
    t.lastCmd = s.lastCmd ∧
      (¬ (s.engine ≠ .idle ∧ EngineHasTurn s) → t.errcode = s.errcode ∧ t.errInfo = s.errInfo) := by
  cases stepEffect_of_step h with
  | reset hr => exact absurd hr hreset
  | rstLow | idle | read => exact ⟨rfl, fun _ => ⟨rfl, rfl⟩⟩
  | completion c hr he hc =>
    exact ⟨complete_lastCmd _ _, fun hn => absurd ⟨by simp [hc], (engineHasTurn_iff s).mpr ⟨hr, he⟩⟩ hn⟩
  | write off x hr he h4 =>
    have hn : ¬ (regAt s.nmax.val off = .cmd ∧ (dequeue s).engine = .idle) := fun ⟨hcmd, hi⟩ =>
      ha ⟨x, (hostWrites_iff s _ x).mpr ⟨hr, (regAt_eq_cmd_iff _ h4).mp hcmd ▸ he⟩, hi⟩
    obtain ⟨-, hlast, hcode, hinfo⟩ := regWrite_of_not_accepted (x := x) hn
    exact ⟨hlast, fun _ => ⟨hcode, hinfo⟩⟩

end Sys2Proof.Machine
end

section
/-! SUPPORT. The decoder, read backwards: the word a command was decoded from, and the words no command is. -/

namespace Sys2Proof

/-- A word is put together from its fields (R80). -/
theorem eq_append_fields (c : Word) : c = rsvField c ++ mselField c ++ opField c := by
  rw [rsvField, mselField, opField,
    BitVec.extractLsb'_append_extractLsb'_eq_extractLsb' (show 5 = 4 + 1 from rfl),
    BitVec.extractLsb'_append_extractLsb'_eq_extractLsb' (show 4 = 0 + 4 from rfl)]
  simp

theorem eq_encode_of_fields {c : Word} {i : Instr} (hrsv : rsvField c = 0) (hmsel : mselField c = i.msel)
    (hop : opField c = i.op) : c = encode i := by
  rw [eq_append_fields c, hrsv, hmsel, hop]; rfl

theorem mselField_eq_zero {c : Word} (h : mselField c ≠ 1) : mselField c = 0 := by
  have := (mselField c).isLt
  bv_omega

/-- A word that decodes to a command is the word of that command (R81). -/
theorem eq_encode_of_decode {c : Word} {i : Instr} (h : decode c = .ok i) : c = encode i := by
  unfold decode at h
  split_ifs at h with hrsv hmsel hop <;> cases h
  · exact eq_encode_of_fields (not_not.mp hrsv) hmsel hop
  all_goals exact eq_encode_of_fields (not_not.mp hrsv) (mselField_eq_zero hmsel) ‹_›

theorem illegal_iff (c : Word) :
    illegal c = true ↔ 7 ≤ (opField c).toNat ∨ (mselField c = 1 ∧ opField c ≠ 0x2) ∨ rsvField c ≠ 0 := by
  simp [illegal, or_assoc]

/-- A word that decodes to no command is illegal (R85). -/
theorem illegal_of_decode_error {c : Word} {e : DecodeError} (h : decode c = .error e) :
    illegal c = true := by
  rw [illegal_iff]
  unfold decode at h
  split_ifs at h with hrsv hmsel hop
  · exact .inr (.inr hrsv)
  · exact .inr (.inl ⟨hmsel, hop⟩)
  · exact .inl (by bv_omega)

end Sys2Proof
end

section
/-! SUPPORT. The invariant, one operation at a time: reset, a write of the host, a completion. -/

namespace Sys2Proof.Machine

open Sys2Proof.Spec

/-! ## Reset -/

/-- Every reset leaves a state of the invariant, whatever it resets (R47, R210). -/
theorem resetBlock_inv (level : Bool) (s : State) : (resetBlock level s).Inv := by
  refine ⟨⟨fun j _ => ?_, fun i j _ => ?_⟩, ⟨?_, ?_, fun i => ?_⟩, fun c hc => ?_, rfl, fun hr => ?_⟩
  · simp [State.reset]
  · simp [State.reset]
  · simp [State.reset]
  · simp [State.reset]
  · simp [State.reset]
  · cases hc
  · cases (show level = true from hr)
    rfl

/-! ## The agenda -/

theorem dequeue_inv {s : State} (h : s.Inv) : (dequeue s).Inv := by
  obtain ⟨hslots, hres, hfly, herr, hheld⟩ := h
  exact ⟨hslots, hres, hfly, herr, fun hr => congrArg (withAgenda s.agenda.tail) (hheld hr)⟩

theorem heldInReset_of_low {s : State} (h : s.rst = false) : s.HeldInReset := fun hr => by simp [h] at hr

/-! ## A write of the host -/

theorem unlessBusy_of_both {P : State → Prop} {f : State → State} {s : State} (ho : P (overrun s))
    (hf : P (f s)) : P (unlessBusy f s) := by
  unfold unlessBusy
  split
  · exact ho
  · exact hf

theorem acceptCommand_inv {c : Word} {s : State} (h : s.Inv) (hr : s.rst = false) : (acceptCommand c s).Inv := by
  obtain ⟨hslots, hres, -, -, -⟩ := h
  refine ⟨hslots, hres, fun d hd => ?_, rfl, heldInReset_of_low hr⟩
  cases hd
  exact ⟨rfl, rfl, rfl, rfl⟩

theorem writeStatus_inv {x : Word} {s : State} (h : s.Inv) (hr : s.rst = false) : (writeStatus x s).Inv := by
  obtain ⟨hslots, hres, hfly, herr, -⟩ := h
  refine ⟨hslots, hres, fun c hc => ?_, herr, heldInReset_of_low hr⟩
  obtain ⟨hlast, hcode, hinfo, hdone⟩ := hfly c hc
  exact ⟨hlast, hcode, hinfo, by rw [writeStatus_done, hdone, Bool.false_and]⟩

theorem vecSet_reserved {n w : Nat} {f : VecFile w} {j a : Fin 8} (x : BitVec w) (hj : j.val < n) (ha : n ≤ a.val)
    (hf : vecEntry f a.val = 0) : vecEntry (vecSet f j x) a.val = 0 := by
  rw [vecEntry_vecSet_ne f j x (by omega), hf]

theorem matSet_reserved {n : Nat} {m : MatFile} {i j a b : Fin 8} (x : Word) (hi : i.val < n) (hj : j.val < n)
    (h : n ≤ a.val ∨ n ≤ b.val) (hm : matEntry m a.val b.val = 0) :
    matEntry (matSet m i j x) a.val b.val = 0 := by
  rw [matEntry_matSet_ne m i j x (by omega), hm]

/-- A write to a register with its indices below `NMAX` keeps the invariant. -/
theorem regWrite_inv {x : Word} {s : State} {r : Reg} (h : s.Inv) (hrst : s.rst = false)
    (hr : r.InRange s.nmax.val) : (regWrite x s r).Inv := by
  have ⟨⟨hvec, hmat⟩, hres, hfly, herr, _⟩ := h
  have hdropped : (overrun s).Inv := ⟨⟨hvec, hmat⟩, hres, hfly, herr, heldInReset_of_low hrst⟩
  cases r with
  | cmd => exact unlessBusy_of_both hdropped (acceptCommand_inv h hrst)
  | status => exact writeStatus_inv h hrst
  | irqEn => exact ⟨⟨hvec, hmat⟩, hres, hfly, herr, heldInReset_of_low hrst⟩
  | dim | scalarIn =>
    exact unlessBusy_of_both hdropped ⟨⟨hvec, hmat⟩, hres, hfly, herr, heldInReset_of_low hrst⟩
  | k i j =>
    refine unlessBusy_of_both hdropped
      ⟨⟨hvec, fun a b hab => ?_⟩, hres, hfly, herr, heldInReset_of_low hrst⟩
    exact (hmat a b hab).imp_left (matSet_reserved x hr.1 hr.2 hab)
  | v j =>
    refine unlessBusy_of_both hdropped
      ⟨⟨fun a ha => ?_, hmat⟩, hres, hfly, herr, heldInReset_of_low hrst⟩
    exact (hvec a ha).imp_left (vecSet_reserved x hr ha)
  | r i j =>
    refine unlessBusy_of_both hdropped
      ⟨⟨hvec, fun a b hab => ?_⟩, hres, hfly, herr, heldInReset_of_low hrst⟩
    exact (hmat a b hab).imp_right (matSet_reserved x hr.1 hr.2 hab)
  | id | version | param | errInfo | lastCmd | scalarOut | detRes | detRaw | w | reserved => exact h

/-! ## A completion -/

/-- The writes of a successful command keep reserved slots empty and hold residues where the register
holds a residue (R110, R122). -/
def ResultWrites.Sound (n : Nat) : ResultWrites → Prop
  | .none => True
  | .scalarOut x => x.toNat < 26
  | .w f => ∀ i : Fin 8, (vecEntry f i.val).toNat < 26 ∧ (n ≤ i.val → vecEntry f i.val = 0)
  | .det _ res => res.toNat < 26
  | .r m => ∀ i j : Fin 8, n ≤ i.val ∨ n ≤ j.val → matEntry m i.val j.val = 0

/-- An outcome the completion of the command in flight may have: sound writes, or an error that the word
in `LAST_CMD` explains. -/
def CmdOutcome.Sound (s : State) : CmdOutcome → Prop
  | .ok x => x.Sound s.nmax.val
  | .error code info => (raiseError code info s).ErrorExplained

theorem finish_inv {s : State} (hslots : s.ReservedSlotsZero) (hres : s.ResiduesInRange) (herr : s.ErrorExplained)
    (hr : s.rst = false) : (finish s).Inv :=
  ⟨hslots, hres, fun _ hc => by simp at hc, herr, heldInReset_of_low hr⟩

theorem performWrites_slots {x : ResultWrites} {s : State} (h : s.ReservedSlotsZero) (hx : x.Sound s.nmax.val) :
    (performWrites x s).ReservedSlotsZero := by
  obtain ⟨hvec, hmat⟩ := h
  cases x with
  | none | scalarOut | det => exact ⟨hvec, hmat⟩
  | w f => exact ⟨fun j hj => ⟨(hvec j hj).1, (hx j).2 hj⟩, hmat⟩
  | r m => exact ⟨hvec, fun i j hij => ⟨(hmat i j hij).1, hx i j hij⟩⟩

theorem performWrites_residues {x : ResultWrites} {s : State} (h : s.ResiduesInRange) (hx : x.Sound s.nmax.val) :
    (performWrites x s).ResiduesInRange := by
  obtain ⟨hscalar, hdet, hw⟩ := h
  cases x with
  | none | r => exact ⟨hscalar, hdet, hw⟩
  | scalarOut y => exact ⟨hx, hdet, hw⟩
  | det raw res => exact ⟨hscalar, hx, hw⟩
  | w f => exact ⟨hscalar, hdet, fun i => (hx i).1⟩

theorem errorExplained_of_no_error {s : State} (hcode : s.errcode = .none) (hinfo : s.errInfo = 0) :
    s.ErrorExplained := by
  simp only [State.ErrorExplained, hcode, hinfo]

/-- A completion with a sound outcome keeps the invariant. -/
theorem complete_inv {o : CmdOutcome} {c : Word} {s : State} (h : s.Inv) (hrst : s.rst = false)
    (hc : s.engine = .busy c) (ho : o.Sound s) : (complete o s).Inv := by
  obtain ⟨hslots, hres, hfly, -, -⟩ := h
  obtain ⟨-, hcode, hinfo, -⟩ := hfly c hc
  cases o with
  | ok x =>
    exact finish_inv (performWrites_slots hslots ho) (performWrites_residues hres ho)
      (errorExplained_of_no_error (by simpa using hcode) (by simpa using hinfo)) (by simpa using hrst)
  | error code info => exact finish_inv hslots hres ho hrst

/-! ## The outcome of every command is sound -/

theorem residue5_lt {x : Int} (h0 : 0 ≤ x) (h : x < 26) : (residue5 x).toNat < 26 := by
  have := residue5_toNat h0 h
  omega

theorem canon_residue5_lt (x : Int) : (residue5 (canon x)).toNat < 26 := residue5_lt (canon_nonneg x) (canon_lt x)

/-- The residue an error reports, when it has no inverse. -/
theorem residue32_not_coprime {x : Int} (h : Int.gcd (canon x) 26 ≠ 1) :
    (residue32 (canon x)).toNat < 26 ∧ Nat.gcd (residue32 (canon x)).toNat 26 ≠ 1 := by
  have hval := residue32_toNat (canon_nonneg x) (canon_lt x)
  have hlt := canon_lt x
  refine ⟨by omega, ?_⟩
  rwa [← hval] at h

theorem zeroFilledVec_sound {n nmax : Nat} {f : IntVec} (hn : n ≤ nmax) (hf : ∀ i, 0 ≤ f i ∧ f i < 26) :
    (ResultWrites.w (zeroFilledVec n f)).Sound nmax := by
  intro i
  rw [vecEntry_zeroFilledVec n f i.isLt]
  refine ⟨?_, fun hi => if_neg (by omega)⟩
  split
  · exact residue5_lt (hf i).1 (hf i).2
  · decide

theorem zeroFilledMat_sound {n nmax : Nat} (f : IntMat) (hn : n ≤ nmax) :
    (ResultWrites.r (zeroFilledMat n f)).Sound nmax := fun i j hij => by
  rw [matEntry_zeroFilledMat n f i.isLt j.isLt, if_neg (by omega)]

/-- The dimension check is sound when the command's word is one of a matrix command and its body is sound
under a legal dimension (R109, R183). -/
theorem withDimension_sound {body : Nat → CmdOutcome} {s : State}
    (hlast : s.lastCmd ∈ [0x02, 0x12, 0x03, 0x04, (0x06 : Word)])
    (hbody : dimension s ≤ s.nmax.val → (body (dimension s)).Sound s) : (withDimension body s).Sound s := by
  rcases withDimension_cases body s with ⟨-, hle, h⟩ | ⟨hd, h⟩ <;> rw [h]
  · exact hbody hle
  · have hle := dimension_le s
    have hinfo : (BitVec.ofNat 32 (dimension s)).toNat = dimension s := by
      rw [BitVec.toNat_ofNat]; omega
    refine ⟨hlast, ?_⟩
    rw [raiseError_errInfo, raiseError_nmax, hinfo]
    omega

theorem multiplyOutcome_sound {m : MatFile} {s : State}
    (hlast : s.lastCmd ∈ [0x02, 0x12, 0x03, 0x04, (0x06 : Word)]) : (multiplyOutcome m s).Sound s :=
  withDimension_sound hlast fun hle => zeroFilledVec_sound hle fun _ => ⟨canon_nonneg _, canon_lt _⟩

theorem detOutcome_sound {s : State} (hlast : s.lastCmd ∈ [0x02, 0x12, 0x03, 0x04, (0x06 : Word)]) :
    (detOutcome s).Sound s :=
  withDimension_sound hlast fun _ => canon_residue5_lt _

theorem adjOutcome_sound {s : State} (hlast : s.lastCmd ∈ [0x02, 0x12, 0x03, 0x04, (0x06 : Word)]) :
    (adjOutcome s).Sound s :=
  withDimension_sound hlast fun hle => zeroFilledMat_sound _ hle

theorem modinvOutcome_sound {s : State} (hlast : s.lastCmd = 0x05) : (modinvOutcome s).Sound s := by
  unfold modinvOutcome
  rcases modularInverse_spec (sint32 s.scalarIn) with ⟨hm, hg⟩ | ⟨x, hm, -, h1, h26, -⟩ <;> rw [hm]
  · exact ⟨hlast, residue32_not_coprime hg⟩
  · exact residue5_lt (by omega) h26

theorem matinvOutcome_sound {s : State} (hlast : s.lastCmd = 0x06) : (matinvOutcome s).Sound s := by
  refine withDimension_sound (by simp [hlast]) fun hle => ?_
  rcases inverseMatrix_spec (dimension s) (matInts s.k) with ⟨hm, hg⟩ | ⟨d, hm, -⟩ <;> rw [hm]
  · exact ⟨hlast, residue32_not_coprime hg⟩
  · exact zeroFilledMat_sound _ hle

/-- Each command ends as its word in `LAST_CMD` explains. -/
theorem outcomeOf_sound {i : Instr} {s : State} (hlast : s.lastCmd = encode i) : (outcomeOf i s).Sound s := by
  cases i with
  | nop => trivial
  | canon => exact canon_residue5_lt _
  | mulv | mulvR => exact multiplyOutcome_sound (by rw [hlast]; decide)
  | det => exact detOutcome_sound (by rw [hlast]; decide)
  | adj => exact adjOutcome_sound (by rw [hlast]; decide)
  | modinv => exact modinvOutcome_sound hlast
  | matinv => exact matinvOutcome_sound hlast

theorem wordOutcome_sound {c : Word} {s : State} (hlast : s.lastCmd = c) : (wordOutcome c s).Sound s := by
  unfold wordOutcome
  split
  next i hd => exact outcomeOf_sound (hlast.trans (eq_encode_of_decode hd))
  next e hd => exact ⟨(congrArg illegal hlast).trans (illegal_of_decode_error hd), hlast.symm⟩

/-! ## Every step -/

theorem stepEffect_inv {s t : State} (h : s.Inv) (ht : StepEffect s t) : t.Inv := by
  have hq := dequeue_inv h
  cases ht with
  | reset _ => exact resetBlock_inv _ _
  | rstLow | idle => exact hq
  | read off hr he h4 =>
    obtain ⟨hslots, hres, hfly, herr, -⟩ := hq
    exact ⟨hslots, hres, hfly, herr, heldInReset_of_low hr⟩
  | write off x hr he h4 => exact regWrite_inv hq hr (slotReg_inRange _ _)
  | completion c hr he hc =>
    obtain ⟨-, -, hfly, -, -⟩ := h
    exact complete_inv hq hr hc (wordOutcome_sound (hfly c hc).1)

end Sys2Proof.Machine
end

section
/-! CERTIFICATES. The statements about the state: the register window, the flags over every step, the
interrupt, reset and the invariant. -/

namespace Sys2Proof.Proofs

open Sys2Proof Sys2Proof.Machine Sys2Proof.Spec

/-! ## The invariant -/

/-- Settles O60, by the cases of what a step can do: reset, a write of the host and a completion keep each
part of the invariant, and every other step moves the agenda or `rdata` only. -/
theorem everyStepKeepsTheInvariant : Obligations.EveryStepKeepsTheInvariant :=
  fun _ _ hinv h => stepEffect_inv hinv (stepEffect_of_step h)

/-- Settles O59: the state after reset is a reset of itself. -/
theorem resetSatisfiesTheInvariant : Obligations.ResetSatisfiesTheInvariant :=
  resetBlock_inv false State.reset

/-! ## The register window -/

/-- Settles O14: the map at each offset of the table, and the map read backwards at every other. -/
theorem registerMap : Obligations.RegisterMap := by
  intro n hn
  refine ⟨rfl, rfl, rfl, rfl, rfl, rfl, rfl, rfl, rfl, rfl, rfl, rfl, fun k => ?_, fun j hj => ⟨?_, ?_⟩,
    fun i j hi hj => ⟨?_, ?_⟩, fun off => regAt_of_not_listed⟩
  · rw [regAt_detRaw n k.isLt, Fin.ofNat_val_eq_self]
  · rw [regAt_v hn hj, Fin.ofNat_val_eq_self]
  · rw [regAt_w hn hj, Fin.ofNat_val_eq_self]
  · rw [regAt_k hn hi hj, Fin.ofNat_val_eq_self, Fin.ofNat_val_eq_self]
  · rw [regAt_r hn hi hj, Fin.ofNat_val_eq_self, Fin.ofNat_val_eq_self]

/-- Settles O15: the constants, and the fields of `PARAM` with `NMAX` from 1 to 7. -/
theorem identificationRegistersAreConstant : Obligations.IdentificationRegistersAreConstant := by
  intro s
  obtain ⟨h1, h7⟩ := s.nmax.property
  have hparam : hostRead 0x008 s = paramWord s := rfl
  have hn : (BitVec.ofNat 4 s.nmax.val).toNat = s.nmax.val := by
    rw [BitVec.toNat_ofNat]; omega
  rw [hparam, paramWord_nmax, hn]
  exact ⟨rfl, rfl, rfl, h1, h7, paramWord_reserved_low s, paramWord_modulus s, paramWord_reserved_high s⟩

/-- Settles O16, field by field; the write is the write to `STATUS` of the model. -/
theorem statusFieldsAndWriteOneToClear : Obligations.StatusFieldsAndWriteOneToClear := by
  intro s x
  have hcode : (hostRead 0x014 s).extractLsb' 8 4 = s.errcode.code := statusWord_errcode s
  refine ⟨statusWord_busy s, statusWord_done s, ?_, statusWord_ovr s, statusWord_reserved_low s, hcode,
    statusWord_reserved_high s, rfl⟩
  rw [hcode]
  exact (statusWord_err s).trans (Bool.eq_iff_iff.mpr (by simp [errFlag]))

/-- Keeping the low bits of a word is masking them. -/
theorem setWidth_extractLsb'_zero (x : Word) (n : Nat) :
    (x.extractLsb' 0 n).setWidth 32 = x &&& BitVec.ofNat 32 (2 ^ n - 1) := by
  apply BitVec.eq_of_getLsbD_eq
  intro i hi
  simp only [BitVec.getLsbD_setWidth, BitVec.getLsbD_extractLsb', BitVec.getLsbD_and, BitVec.getLsbD_ofNat,
    Nat.testBit_two_pow_sub_one, hi, decide_true, Bool.true_and, Nat.zero_add, Bool.and_comm]

theorem bit_getLsbD_zero (x : Word) : bit (x.getLsbD 0) = x.extractLsb' 0 1 := by
  ext i hi
  have : i = 0 := by omega
  simp [bit, this]

/-- A write to a register is read back as the value the register then has: a write does not move a register. -/
theorem hostRead_hostWrite {s : State} {off : Offset} {r : Reg} (h : regAt s.nmax.val off = r) (x : Word) :
    hostRead off (hostWrite off x s) = regValue (regWrite x s r) r := by
  rw [hostWrite_eq h, hostRead, regWrite_nmax, h]

/-- Settles O17: each of the six kinds of register, by its value after its write. -/
theorem writtenRegistersReadBack : Obligations.WrittenRegistersReadBack := by
  intro s x hi
  have hn : s.nmax.val ≤ 7 := s.nmax.property.2
  refine ⟨?_, ?_, ?_, fun i j hin hjn => ⟨?_, ?_⟩, fun j hjn => ?_⟩
  · rw [hostRead_hostWrite (r := .dim) rfl, regWrite, unlessBusy_of_idle _ hi, regValue]
    exact setWidth_extractLsb'_zero x 3
  · rw [hostRead_hostWrite (r := .irqEn) rfl, regWrite, regValue, irqEnWord, bit_getLsbD_zero]
    exact setWidth_extractLsb'_zero x 1
  · rw [hostRead_hostWrite (r := .scalarIn) rfl, regWrite, unlessBusy_of_idle _ hi, regValue]
  · rw [kReg, hostRead_hostWrite (regAt_k hn hin hjn), regWrite, unlessBusy_of_idle _ hi, regValue]
    exact matEntry_matSet_same s.k _ _ x
  · rw [rReg, hostRead_hostWrite (regAt_r hn hin hjn), regWrite, unlessBusy_of_idle _ hi, regValue]
    exact matEntry_matSet_same s.r _ _ x
  · rw [vReg, hostRead_hostWrite (regAt_v hn hjn), regWrite, unlessBusy_of_idle _ hi, regValue]
    exact vecEntry_vecSet_same s.v _ x

/-- Settles O19: what the table does not list is the reserved register. -/
theorem reservedOffsetsReadZeroAndIgnoreWrites : Obligations.ReservedOffsetsReadZeroAndIgnoreWrites :=
  fun _ _ x h =>
    have hreg := regAt_of_not_listed h
    ⟨hostRead_eq hreg, hostWrite_eq hreg x⟩

/-! ## The flags and the interrupt, over every step -/

/-- Settles O22: the bit is the engine's state, and the engine after a step goes by the cases of the step. -/
theorem busyChangesOnlyAtAcceptanceCompletionReset :
    Obligations.BusyChangesOnlyAtAcceptanceCompletionReset := by
  intro s t h
  rw [hostRead_status_busy, hostRead_status_busy, isBusy_eq_true_iff, isBusy_eq_true_iff]
  exact ⟨Iff.rfl, engine_ne_idle_of_step h⟩

/-- Settles O23: by `DONE` in each case of the step; the interrupt is a conjunction with it. -/
theorem doneChangesAsListed : Obligations.DoneChangesAsListed := by
  intro s t h
  rw [hostRead_status_done]
  exact ⟨fun hirq => (Bool.and_eq_true_iff.mp hirq).1, done_of_step h⟩

/-- Settles O24: by `OVR` in each case of the step; the dropped writes are those the register map sends to
`CMD` or an operand register. -/
theorem overrunIsSticky : Obligations.OverrunIsSticky := by
  intro s t h
  rw [hostRead_status_ovr]
  exact ovr_of_step h

/-- Settles O25: reset, acceptance, and the steps that keep the word. -/
theorem lastCmdHoldsTheLastAcceptedWord : Obligations.LastCmdHoldsTheLastAcceptedWord := by
  intro s t h
  simp only [hostRead_lastCmd]
  refine ⟨fun hreset => ?_, fun _ c hc hi => ?_, fun hreset hno => (kept_of_step h hreset hno).1⟩
  · cases eq_resetBlock_of_step h hreset
    rfl
  · cases (step_of_acceptance hc hi).symm.trans h
    rfl

/-- Settles O26: reset and acceptance clear both, and the other steps that are no completion keep them. -/
theorem errcodeIsKeptUntilTheNextAcceptance : Obligations.ErrcodeIsKeptUntilTheNextAcceptance := by
  intro s t h
  refine ⟨?_, fun hreset hno => (kept_of_step h hreset fun ⟨c, hc, hi⟩ => hno ⟨hi, c, hc⟩).2⟩
  rintro (hreset | ⟨hi, c, hc⟩)
  · cases eq_resetBlock_of_step h hreset
    exact ⟨rfl, rfl⟩
  · cases (step_of_acceptance hc hi).symm.trans h
    exact ⟨rfl, rfl⟩

/-- Settles O27: the interrupt is `DONE` and `DONE_IE`, and each event named decides the step. -/
theorem interruptFollowsDoneWhileEnabled : Obligations.InterruptFollowsDoneWhileEnabled := by
  intro s t
  rw [hostRead_status_done, hostRead_irqEn_doneIe]
  refine ⟨rfl, fun h => ⟨fun hturn hbusy => ?_, fun c hc hi => ?_, fun x hx hbit => ?_, fun x hx hbit => ?_,
    fun hreset => ?_⟩⟩
  · cases hc : s.engine with
    | idle => exact absurd hc hbusy
    | busy c =>
      cases (step_of_completion hturn hc).symm.trans h
      simp [irq]
  · cases (step_of_acceptance hc hi).symm.trans h
    rfl
  · cases (step_of_hostWrites hx rfl).symm.trans h
    rw [hostWrite_eq (r := .status) rfl, regWrite, irq, writeStatus_done, hbit]
    simp
  · cases (step_of_hostWrites hx rfl).symm.trans h
    rw [hostWrite_eq (r := .irqEn) rfl, regWrite, irq, hbit]
    simp
  · cases eq_resetBlock_of_step h hreset
    rfl

/-! ## Acceptance by placing a word, and the reset state -/

/-- Settles O6: the placed word is in flight and the engine has the next turn. -/
theorem fetchedWordRunsNext : Obligations.FetchedWordRunsNext := by
  intro s w i hw hi
  have hdec : decode (BitVec.ofNat 32 w) = .ok i := by
    rw [decodeTableWord, Nat.mod_eq_of_lt hw] at hi
    cases hd : decode (BitVec.ofNat 32 w) <;> simp_all
  rw [State.withFetchWord, Nat.mod_eq_of_lt hw]
  have hturn : EngineHasTurn (withCommand (BitVec.ofNat 32 w) s) := ⟨rfl, .inr rfl⟩
  rw [step_of_completion hturn rfl, wordOutcome, hdec, exec_eq_complete]
  rfl

/-- What each register reads as after reset (R47). -/
theorem regValue_reset (r : Reg) : regValue State.reset r =
    if r = .id then 0x48494C4C else if r = .version then 0x00010000 else if r = .param then 0x00001A06 else 0 := by
  cases r with
  | k | r => exact matEntry_zeroMat _ _
  | v => exact vecEntry_zeroVec _ _
  | w => exact congrArg zext32 (vecEntry_zeroVec 5 _)
  | detRaw k => exact BitVec.extractLsb'_zero
  | _ => rfl

/-- Settles O29: the constants stand at the words 0, 1 and 2 of the window only. -/
theorem resetValues : Obligations.ResetValues := by
  refine ⟨fun off => ?_, rfl, rfl⟩
  have hid : regAt State.reset.nmax.val off = .id ↔ wordOffset off = 0x000 :=
    regAt_eq_iff_wordOffset (regAt_id _) (by decide) rfl off
  have hversion : regAt State.reset.nmax.val off = .version ↔ wordOffset off = 0x004 :=
    regAt_eq_iff_wordOffset (regAt_version _) (by decide) rfl off
  have hparam : regAt State.reset.nmax.val off = .param ↔ wordOffset off = 0x008 :=
    regAt_eq_iff_wordOffset (regAt_param _) (by decide) rfl off
  simp only [hostRead, regValue_reset, hid, hversion, hparam]

end Sys2Proof.Proofs
end

section
/-! SUPPORT. The window: which addresses and offsets reach a register, and what a write to one register
leaves as it was. -/

namespace Sys2Proof.Machine

open Sys2Proof.Spec

/-! ## Addresses and offsets -/

/-- The window is the 4096 addresses from `BASE` on (R60). -/
theorem windowOffset_eq_some_iff (a : Nat) (off : Offset) :
    windowOffset a = some off ↔ a = Config.base + off.toNat := by
  have hoff := off.isLt
  unfold windowOffset
  split
  next h => rw [Option.some_inj, BitVec.toNat_eq, BitVec.toNat_ofNat]; omega
  next h => simp only [reduceCtorEq, false_iff]; omega

/-- Masking the two low bits of an offset does not change its word (R63). -/
theorem and_mask_toNat_div (off : Offset) : (off &&& 0xFFC).toNat / 4 = off.toNat / 4 := by
  have hmask : ∀ i < 10, (0xFFC : Offset).getLsbD (2 + i) = true := by decide
  have hshift : (off &&& 0xFFC) >>> 2 = off >>> 2 := by
    apply BitVec.eq_of_getLsbD_eq
    intro i _
    rw [BitVec.getLsbD_ushiftRight, BitVec.getLsbD_ushiftRight, BitVec.getLsbD_and]
    by_cases hi : i < 10
    · rw [hmask i hi, Bool.and_true]
    · rw [BitVec.getLsbD_of_ge off _ (by omega), Bool.false_and]
  simpa [BitVec.toNat_ushiftRight, Nat.shiftRight_eq_div_pow] using congrArg BitVec.toNat hshift

/-- An offset reaches the register at the offset of its word (R63). -/
theorem regAt_of_wordOffset {n a : Nat} {off : Offset} {r : Reg} (ha : wordOffset off = a)
    (hreg : regAt n (BitVec.ofNat 12 a) = r) : regAt n off = r := by
  rw [← hreg]
  apply regAt_congr
  have := off.isLt
  rw [BitVec.toNat_ofNat, ← ha, wordOffset_eq]
  omega

/-! ## Read-only registers -/

/-- The read-only registers of the table of R22 (R67). -/
def Reg.IsReadOnly : Reg → Prop
  | .id | .version | .param | .errInfo | .lastCmd | .scalarOut | .detRes | .detRaw _ | .w _ => True
  | _ => False

theorem regWrite_of_isReadOnly {r : Reg} (h : r.IsReadOnly) (x : Word) (s : State) : regWrite x s r = s := by
  cases r with
  | id | version | param | errInfo | lastCmd | scalarOut | detRes | detRaw | w => rfl
  | _ => exact h.elim

/-- At an offset of R67 stands a read-only register. -/
theorem isReadOnly_of_readOnlyOffset {n : Nat} (hn : n ≤ 7) {off : Offset}
    (h : ReadOnlyOffset n (wordOffset off)) : (regAt n off).IsReadOnly := by
  have at_number {a : Nat} {r : Reg} (ha : wordOffset off = a) (hreg : regAt n (BitVec.ofNat 12 a) = r)
      (hr : r.IsReadOnly) : (regAt n off).IsReadOnly := by
    rwa [regAt_of_wordOffset ha hreg]
  obtain hctl | ⟨k, hk, ha⟩ | ⟨i, hi, ha⟩ := h
  · simp only [List.mem_cons, List.not_mem_nil, or_false] at hctl
    obtain ha | ha | ha | ha | ha | ha | ha := hctl
    · exact at_number ha (regAt_id n) trivial
    · exact at_number ha (regAt_version n) trivial
    · exact at_number ha (regAt_param n) trivial
    · exact at_number ha (regAt_errInfo n) trivial
    · exact at_number ha (regAt_lastCmd n) trivial
    · exact at_number ha (regAt_scalarOut n) trivial
    · exact at_number ha (regAt_detRes n) trivial
  · exact at_number ha (regAt_detRaw n hk) trivial
  · exact at_number ha (regAt_w hn hi) trivial

/-- A word zero-extended from `n` bits holds 0 above them. -/
theorem extractLsb'_setWidth_above {n : Nat} (x : BitVec n) (w len : Nat) :
    (x.setWidth w).extractLsb' n len = 0 := by
  apply BitVec.eq_of_getLsbD_eq
  intro i _
  simp

/-! ## A write leaves every other register -/

/-- Two different elements of a matrix file differ in an index. -/
theorem index_ne_of_ne {f : Fin 8 → Fin 8 → Reg} {a b i j : Fin 8} (h : f a b ≠ f i j) :
    a.val ≠ i.val ∨ b.val ≠ j.val :=
  not_and_or.mp fun ⟨ha, hb⟩ => h (by rw [Fin.ext ha, Fin.ext hb])

/-- While IDLE a write to one register, `CMD` apart, leaves the value of every other (R65). -/
theorem regValue_regWrite_of_ne {s : State} {r q : Reg} (x : Word) (hi : s.engine = .idle) (hcmd : r ≠ .cmd)
    (hq : q ≠ r) : regValue (regWrite x s r) q = regValue s q := by
  cases r with
  | cmd => exact absurd rfl hcmd
  | id | version | param | errInfo | lastCmd | scalarOut | detRes | detRaw | w | reserved => rfl
  | status =>
    cases q with
    | status => exact absurd rfl hq
    | _ => rfl
  | irqEn =>
    cases q with
    | irqEn => exact absurd rfl hq
    | _ => rfl
  | dim =>
    rw [regWrite, unlessBusy_of_idle _ hi]
    cases q with
    | dim => exact absurd rfl hq
    | _ => rfl
  | scalarIn =>
    rw [regWrite, unlessBusy_of_idle _ hi]
    cases q with
    | scalarIn => exact absurd rfl hq
    | _ => rfl
  | k i j =>
    rw [regWrite, unlessBusy_of_idle _ hi]
    cases q with
    | k a b => exact matEntry_matSet_ne s.k i j x (index_ne_of_ne hq)
    | _ => rfl
  | v j =>
    rw [regWrite, unlessBusy_of_idle _ hi]
    cases q with
    | v a => exact vecEntry_vecSet_ne s.v j x fun ha => hq (congrArg Reg.v (Fin.ext ha))
    | _ => rfl
  | r i j =>
    rw [regWrite, unlessBusy_of_idle _ hi]
    cases q with
    | r a b => exact matEntry_matSet_ne s.r i j x (index_ne_of_ne hq)
    | _ => rfl

/-- While IDLE a write, `CMD` apart, leaves every other word of the window (R65, R70). -/
theorem hostRead_hostWrite_of_ne {s : State} {off a : Offset} (x : Word) (hi : s.engine = .idle)
    (hcmd : off.toNat / 4 ≠ 4) (ha : a.toNat / 4 ≠ off.toNat / 4) :
    hostRead a (hostWrite off x s) = hostRead a s := by
  by_cases hsame : regAt s.nmax.val a = regAt s.nmax.val off
  · have hreserved : regAt s.nmax.val off = .reserved := hsame.symm.trans (regAt_ne ha hsame)
    rw [hostWrite_eq hreserved]
    rfl
  · have hoff : regAt s.nmax.val off ≠ .cmd :=
      fun h => hcmd ((regAt_eq_iff (regAt_cmd _) (by decide) off).mp h)
    rw [hostRead, hostWrite, regWrite_nmax, regValue_regWrite_of_ne x hi hoff hsame, hostRead]

end Sys2Proof.Machine
end

section
/-! SUPPORT. Host steps and the engine's turn at the step, and the steps that leave a command in flight. -/

namespace Sys2Proof.Machine

open Sys2Proof.Spec

/-! ## The step, by its event -/

theorem nextEvent_eq_host_iff (tr : Transaction) (s : State) :
    nextEvent s = .host tr ↔ s.agenda.head? = some (.host tr) := by
  cases h : s.agenda <;> simp [nextEvent, h]

theorem step_of_host {s : State} {tr : Transaction} (h : nextEvent s = .host tr) :
    step s = hostTurn tr (dequeue s) := by
  rw [step_eq_takeEvent, h, takeEvent]

/-- Everything a host step can do (R63, U3). -/
theorem step_of_host_cases {s : State} {tr : Transaction} (h : nextEvent s = .host tr) :
    (tr.size = 4 ∧ tr.off.toNat % 4 = 0 ∧ ∃ t, step s = .next t) ∨
    (tr.size = 4 ∧ tr.off.toNat % 4 ≠ 0 ∧ step s = .refused .misalignedAccess) ∨
    (tr.size ≠ 4 ∧ step s = .refused .subWordAccess) := by
  rw [step_of_host h]
  obtain ⟨hs, ho, ht⟩ | hmisaligned | hsub := hostTurn_cases tr (dequeue s)
  · exact .inl ⟨hs, ho, _, ht⟩
  · exact .inr (.inl hmisaligned)
  · exact .inr (.inr hsub)

/-- With `rst` low a transaction at a word offset is performed (R61). -/
theorem step_of_hostHasTurn {s : State} {tr : Transaction} (h : HostHasTurn tr s) (hw : tr.wellFormed = true) :
    step s = .next (perform tr (dequeue s)) := by
  obtain ⟨hr, he⟩ := (hostHasTurn_iff tr s).mp h
  rw [step_of_host he, hostTurn, if_pos hw, dequeue_rst, hr]
  rfl

/-- An IDLE engine's turn takes its event off the agenda and nothing else (R212). -/
theorem step_of_idle {s : State} (h : EngineHasTurn s) (hi : s.engine = .idle) : step s = .next (dequeue s) := by
  obtain ⟨hr, he⟩ := (engineHasTurn_iff s).mp h
  rw [step_eq_takeEvent, he, takeEvent, dequeue_rst, hr]
  exact engineTurn_of_idle (s := dequeue s) hi

/-- The engine's turn always has a next state: no command stops the machine (R103, R180). -/
theorem engineTurn_isNext (s : State) : ∃ t, engineTurn s = .next t := by
  cases h : s.engine with
  | idle => exact ⟨_, engineTurn_of_idle h⟩
  | busy c => exact ⟨_, engineTurn_of_busy h⟩

/-- Every event but a host transaction has a next state. -/
theorem takeEvent_isNext {e : Event} (h : ∀ tr, e ≠ .host tr) (s : State) : ∃ t, takeEvent e s = .next t := by
  cases e with
  | host tr => exact absurd rfl (h tr)
  | rst level => exact ⟨_, rfl⟩
  | engine =>
    by_cases hr : s.rst = true
    · exact ⟨_, if_pos hr⟩
    · rw [takeEvent, if_neg hr]
      exact engineTurn_isNext s

/-! ## The steps that leave a command in flight -/

theorem unlessBusy_of_busy (f : State → State) {s : State} (h : s.engine ≠ .idle) : unlessBusy f s = overrun s := by
  simp [unlessBusy, h]

/-- While BUSY a write reaches no register but `STATUS` and `IRQ_EN` (R101, R102). -/
theorem regWrite_of_busy (x : Word) {s : State} (r : Reg) (h : s.engine ≠ .idle) :
    ∃ done ovr doneIe, regWrite x s r = { s with done := done, ovr := ovr, doneIe := doneIe } := by
  cases r with
  | dim | cmd | scalarIn | k | v | r =>
    rw [regWrite, unlessBusy_of_busy _ h]
    exact ⟨_, _, _, rfl⟩
  | _ => exact ⟨_, _, _, rfl⟩

/-- A step that leaves a command in flight changes no field but the flags `DONE`, `OVR` and `DONE_IE`, the
word last read and the agenda: reset and completion leave the engine IDLE (R73). -/
theorem frame_of_step_in_flight {s t : State} (h : step s = .next t) (hs : s.engine ≠ .idle)
    (ht : t.engine ≠ .idle) : ∃ done ovr doneIe rdata agenda,
      t = { s with done := done, ovr := ovr, doneIe := doneIe, rdata := rdata, agenda := agenda } := by
  cases stepEffect_of_step h with
  | reset => exact absurd rfl ht
  | completion => exact absurd (complete_engine _ _) ht
  | rstLow | idle | read => exact ⟨_, _, _, _, _, rfl⟩
  | write off x =>
    obtain ⟨done, ovr, doneIe, hw⟩ := regWrite_of_busy x (s := dequeue s) (regAt s.nmax.val off) hs
    exact ⟨done, ovr, doneIe, _, _, hw⟩

end Sys2Proof.Machine
end

section
/-! CERTIFICATES. The statements about the memory: whole-word accesses, the window of registers, and what stays
while a command is in flight. -/

namespace Sys2Proof.Proofs

open Sys2Proof Sys2Proof.Machine Sys2Proof.Spec

/-- Settles O11: the map goes by the word of the offset, and a host step by the size and the offset of its
access. -/
theorem accessesAreWholeWords : Obligations.AccessesAreWholeWords := by
  refine ⟨fun s off x => ?_, fun s off n tr hhead htr => ?_⟩
  · have hreg : regAt s.nmax.val off = regAt s.nmax.val (off &&& 0xFFC) :=
      regAt_congr _ (and_mask_toNat_div off).symm
    exact ⟨hostRead_eq hreg, hostWrite_eq hreg x⟩
  · obtain ⟨hsize, hoff⟩ : tr.size = n ∧ tr.off = off := by
      obtain rfl | ⟨x, rfl⟩ := htr <;> exact ⟨rfl, rfl⟩
    have hcases := step_of_host_cases ((nextEvent_eq_host_iff tr s).mpr hhead)
    rw [hsize, hoff] at hcases
    obtain ⟨h4, h0, hnext⟩ | ⟨h4, h0, hmisaligned⟩ | ⟨h4, hsub⟩ := hcases
    · exact ⟨fun hn => absurd h4 hn, fun _ hne => absurd h0 hne, fun _ _ => hnext⟩
    · exact ⟨fun hn => absurd h4 hn, fun _ _ => hmisaligned, fun _ hz => absurd hz h0⟩
    · exact ⟨fun _ => hsub, fun hn => absurd hn h4, fun hn => absurd hn h4⟩

/-- Settles O12, by the next event: only a host transaction can be refused. -/
theorem onlyAccessesThatAreNotOneWordStopTheMachine : Obligations.OnlyAccessesThatAreNotOneWordStopTheMachine := by
  intro s
  by_cases hhost : ∃ tr, nextEvent s = .host tr
  · obtain ⟨tr, he⟩ := hhost
    have hhead := (nextEvent_eq_host_iff tr s).mp he
    obtain ⟨-, -, hnext⟩ | ⟨h4, h0, hmisaligned⟩ | ⟨h4, hsub⟩ := step_of_host_cases he
    · exact .inl hnext
    · exact .inr (.inr ⟨hmisaligned, tr, hhead, h4, h0⟩)
    · exact .inr (.inl ⟨hsub, tr, hhead, h4⟩)
  · rw [step_eq_takeEvent]
    exact .inl (takeEvent_isNext (not_exists.mp hhost) _)

/-- Settles O18: offsets of different words reach different registers, and a write leaves the other
registers. -/
theorem writesTouchOneRegister : Obligations.WritesTouchOneRegister :=
  fun _ _ x hi hcmd _ ha => windowByte_congr (hostRead_hostWrite_of_ne x hi hcmd ha)

/-- Settles O20: the read-only offsets reach read-only registers, and the reserved bits are those a narrower
field is extended by. -/
theorem readOnlyRegistersIgnoreWrites : Obligations.ReadOnlyRegistersIgnoreWrites := by
  intro s off x
  refine ⟨fun h => ?_, rfl, rfl, extractLsb'_setWidth_above s.dimN 32 29,
    extractLsb'_setWidth_above (bit s.doneIe) 32 31⟩
  exact regWrite_of_isReadOnly (isReadOnly_of_readOnlyOffset s.nmax.property.2 h) x s

/-- Settles O28, by the frame of a step that leaves a command in flight. -/
theorem operandsAndResultsAreFixedWhileBusy : Obligations.OperandsAndResultsAreFixedWhileBusy := by
  intro s t c d h hc hd
  obtain ⟨_, _, _, _, _, rfl⟩ := frame_of_step_in_flight h (by simp [hc]) (by simp [hd])
  cases hc.symm.trans hd
  exact ⟨rfl, rfl, rfl, rfl, rfl, rfl, rfl, rfl, rfl, rfl, rfl, rfl⟩

/-- Settles O7: a transaction at a word offset is performed, and an IDLE engine has no step. -/
theorem hostStepsReadAndWriteTheWindow : Obligations.HostStepsReadAndWriteTheWindow :=
  fun _ =>
    ⟨fun _ h4 h => step_of_hostHasTurn h ((wellFormed_iff _).mpr ⟨rfl, h4⟩),
      fun _ _ h4 h => step_of_hostHasTurn h ((wellFormed_iff _).mpr ⟨rfl, h4⟩), step_of_idle⟩

/-- Settles O21: both directions of what the window holds. -/
theorem windowHoldsEachOffsetOnce : Obligations.WindowHoldsEachOffsetOnce :=
  ⟨fun off => (windowOffset_eq_some_iff _ off).mpr rfl, fun a off => (windowOffset_eq_some_iff a off).mp⟩

end Sys2Proof.Proofs
end

section
/-! SUPPORT. The decoder, read forwards: each command is decoded from its own word, and the illegal words are
the words of no command. -/

namespace Sys2Proof

open Sys2Proof.Spec

theorem decode_encode (i : Instr) : decode (encode i) = .ok i := by
  cases i with
  | nop | canon | mulv | mulvR | det | adj | modinv | matinv => decide

/-- A word decodes to a command exactly when it is the word of that command (R80, R81). -/
theorem decode_eq_ok_iff (i : Instr) (c : Word) : decode c = .ok i ↔ c = encode i :=
  ⟨eq_encode_of_decode, fun h => h ▸ decode_encode i⟩

/-- The decoder answers every word, so it rejects exactly the words of no command (R81). -/
theorem decode_error_iff_forall_ne (c : Word) : (∃ e, decode c = .error e) ↔ ∀ i, c ≠ encode i := by
  cases hd : decode c with
  | ok i => simp [(decode_eq_ok_iff i c).mp hd]
  | error e => simp [← decode_eq_ok_iff, hd]

/-! ## The command words -/

theorem commandWords_eq_map_encode :
    commandWords = [Instr.nop, .canon, .mulv, .mulvR, .det, .adj, .modinv, .matinv].map encode := rfl

theorem mem_commandWords_iff (c : Word) : c ∈ commandWords ↔ ∃ i, c = encode i := by
  rw [commandWords_eq_map_encode, List.mem_map]
  constructor
  · rintro ⟨i, -, h⟩
    exact ⟨i, h.symm⟩
  · rintro ⟨i, h⟩
    exact ⟨i, by cases i <;> decide, h.symm⟩

/-! ## The illegal words -/

theorem illegal_encode (i : Instr) : illegal (encode i) = false := by
  cases i with
  | nop | canon | mulv | mulvR | det | adj | modinv | matinv => decide

/-- The decoder rejects exactly the illegal words (R85). -/
theorem decode_error_iff_illegal (c : Word) : (∃ e, decode c = .error e) ↔ illegal c = true := by
  refine ⟨fun ⟨_, h⟩ => illegal_of_decode_error h, fun h => (decode_error_iff_forall_ne c).mpr ?_⟩
  rintro i rfl
  simp [illegal_encode] at h

/-- `MSEL` is bit 4 (R80). -/
theorem mselField_eq_one_iff (c : Word) : mselField c = 1 ↔ c.getLsbD 4 = true := by
  rw [mselField, BitVec.eq_of_getLsbD_eq_iff]
  simp

end Sys2Proof

namespace Sys2Proof.Machine

theorem wordOutcome_of_error {c : Word} {e : DecodeError} (h : decode c = .error e) (s : State) :
    wordOutcome c s = .error .illegalCommand c := by
  rw [wordOutcome, h]

end Sys2Proof.Machine
end

section
/-! CERTIFICATES. The statements about the encoding: the round trip, the opcode map and the illegal words. -/

namespace Sys2Proof.Proofs

open Sys2Proof Sys2Proof.Machine Sys2Proof.Spec

/-- Settles O2: a word is put together from its fields, and the word of each command decodes to it. -/
theorem decodeInvertsEncode : Obligations.DecodeInvertsEncode := fun i c _ => decode_eq_ok_iff i c

/-- Settles O1: the words of the table are the encodings, and a word of no command is rejected. -/
theorem everyWordDecodesByTheOpcodeMap : Obligations.EveryWordDecodesByTheOpcodeMap := by
  intro c
  refine ⟨decode_eq_ok_iff .nop c, decode_eq_ok_iff .canon c, decode_eq_ok_iff .mulv c,
    decode_eq_ok_iff .mulvR c, decode_eq_ok_iff .det c, decode_eq_ok_iff .adj c, decode_eq_ok_iff .modinv c,
    decode_eq_ok_iff .matinv c, ?_⟩
  rw [decode_error_iff_forall_ne, mem_commandWords_iff, not_exists]

/-- Settles O4: the decoder rejects the three cases of R85, acceptance does not look at the word, and the
completion of a rejected word is the error. -/
theorem illegalWordsCompleteWithIllegalCommand : Obligations.IllegalWordsCompleteWithIllegalCommand := by
  intro c
  refine ⟨?_, fun s ⟨e, hd⟩ => ⟨fun hi hw => ?_, fun hc hturn => ?_⟩⟩
  · rw [decode_error_iff_illegal, illegal_iff, mselField_eq_one_iff]
    rfl
  · exact ⟨_, step_of_acceptance hw hi, acceptCommand_engine _ _, hostRead_lastCmd _⟩
  · rw [step_of_completion hturn hc, wordOutcome_of_error hd]
    rfl

/-- Settles O3: the first four words are encodings, and each of the others breaks one case of R85. -/
theorem sampleWordsDecode : Obligations.SampleWordsDecode :=
  ⟨decode_encode .nop, decode_encode .mulvR, decode_encode .modinv, decode_encode .matinv,
    by decide, by decide, by decide⟩

end Sys2Proof.Proofs
end

section
/-! SUPPORT. A write that is dropped, and the run of the steps from acceptance to completion. -/

namespace Sys2Proof.Machine

open Sys2Proof.Spec

/-! ## Writes while the engine is BUSY -/

/-- `CMD` and the operand registers drop a write while the engine is BUSY (R101, R102). -/
theorem regWrite_dropped {s : State} {r : Reg} (x : Word) (hr : r = .cmd ∨ r.IsOperand) (h : s.engine ≠ .idle) :
    regWrite x s r = overrun s := by
  cases r with
  | cmd | dim | scalarIn | k | v | r => rw [regWrite, unlessBusy_of_busy _ h]
  | _ => simp [Reg.IsOperand] at hr

/-- Every offset of R102 is a word offset. -/
theorem operandOffset_aligned {n a : Nat} (h : OperandOffset n a) : a % 4 = 0 := by
  obtain ha | ha | ⟨i, j, -, -, ha⟩ | ⟨j, -, ha⟩ | ⟨i, j, -, -, ha⟩ := h <;> omega

/-- The only effect of a step with a dropped write is that `OVR` rises (R101, R102). -/
theorem step_of_dropped_write {s : State} {off : Offset} {x : Word} (h : HostWrites s off x)
    (h4 : off.toNat % 4 = 0) (hbusy : s.engine ≠ .idle)
    (hreg : regAt s.nmax.val off = .cmd ∨ (regAt s.nmax.val off).IsOperand) :
    step s = .next (overrun (dequeue s)) := by
  rw [step_of_hostWrites h h4]
  exact congrArg _ (regWrite_dropped (s := dequeue s) x hreg hbusy)

/-! ## Hosts that keep to the port -/

theorem hostsKeepToThePort_iff (s : State) :
    s.hostsKeepToThePort = true ↔ ∀ tr, .host tr ∈ s.agenda → tr.wellFormed = true := by
  rw [State.hostsKeepToThePort, List.all_eq_true]
  refine ⟨fun h tr htr => h _ htr, fun h e he => ?_⟩
  cases e with
  | host tr => exact h tr he
  | engine | rst => rfl

/-- A step is refused only on a transaction that is not well formed (R63, U3). -/
theorem step_isNext {s : State} (h : s.hostsKeepToThePort = true) : ∃ t, step s = .next t := by
  by_cases hhost : ∃ tr, nextEvent s = .host tr
  · obtain ⟨tr, he⟩ := hhost
    have hmem := List.mem_of_mem_head? ((nextEvent_eq_host_iff tr s).mp he)
    rw [step_of_host he, hostTurn, if_pos ((hostsKeepToThePort_iff s).mp h tr hmem)]
    exact ⟨_, rfl⟩
  · rw [step_eq_takeEvent]
    exact takeEvent_isNext (not_exists.mp hhost) _

/-! ## From acceptance to completion -/

/-- Nothing to come disturbs the command in flight: `rst` is low and does not rise, and no access is refused. -/
structure State.Undisturbed (s : State) : Prop where
  rstLow : s.rst = false
  hosts : s.hostsKeepToThePort = true
  noReset : ∀ e ∈ s.agenda, e ≠ .rst true

theorem not_resetActs_of_undisturbed {s : State} (h : s.Undisturbed) : ¬ ResetActs s := by
  rintro (hr | hhead)
  · simp [h.rstLow] at hr
  · exact h.noReset _ (List.mem_of_mem_head? hhead) rfl

/-- What is left of an agenda disturbs nothing that the whole of it does not. -/
theorem undisturbed_of_tail {s t : State} (h : s.Undisturbed) (hr : t.rst = false)
    (ha : t.agenda = s.agenda.tail) : t.Undisturbed where
  rstLow := hr
  hosts := (hostsKeepToThePort_iff t).mpr fun tr htr =>
    (hostsKeepToThePort_iff s).mp h.hosts tr (List.mem_of_mem_tail (ha ▸ htr))
  noReset := fun e he => h.noReset e (List.mem_of_mem_tail (ha ▸ he))

/-- Without reset, a step completes the command in flight, or takes one event and leaves it in flight
(R101, R103). -/
theorem step_in_flight {s t : State} {c : Word} (h : step s = .next t) (hc : s.engine = .busy c)
    (hreset : ¬ ResetActs s) :
    t.engine = .idle ∨
      (s.agenda ≠ [] ∧ t.engine = .busy c ∧ t.rst = false ∧ t.agenda = s.agenda.tail) := by
  have nonempty (he : nextEvent s ≠ .engine) : s.agenda ≠ [] := fun hnil => he (by simp [nextEvent, hnil])
  cases stepEffect_of_step h with
  | reset hr => exact absurd hr hreset
  | completion => exact .inl (complete_engine _ _)
  | idle _ _ hi => simp [hc] at hi
  | rstLow hr he | read off hr he => exact .inr ⟨nonempty (by simp [he]), hc, hr, rfl⟩
  | write off x hr he =>
    obtain ⟨done, ovr, doneIe, hw⟩ :=
      regWrite_of_busy x (s := dequeue s) (regAt s.nmax.val off) (by simp [hc])
    rw [hw]
    exact .inr ⟨nonempty (by simp [he]), hc, hr, rfl⟩

/-- A run of one step more starts with that step. -/
theorem run_succ_of_step {M : Host.Core} {s t : M.State} (h : M.step s = .next t) (k : Nat) :
    M.run (k + 1) s = M.run k t := by
  rw [Host.Core.run, h]

/-- An undisturbed command completes in the next step, or stays undisturbed with one event less to come. -/
theorem step_of_undisturbed {s : State} {c : Word} (hc : s.engine = .busy c) (hs : s.Undisturbed) :
    ∃ t, step s = .next t ∧ (t.engine = .idle ∨
      (s.agenda ≠ [] ∧ t.engine = .busy c ∧ t.Undisturbed ∧ t.agenda = s.agenda.tail)) := by
  obtain ⟨t, ht⟩ := step_isNext hs.hosts
  refine ⟨t, ht, (step_in_flight ht hc (not_resetActs_of_undisturbed hs)).imp_right ?_⟩
  rintro ⟨hne, hbusy, hr, ha⟩
  exact ⟨hne, hbusy, undisturbed_of_tail hs hr ha, ha⟩

/-- An undisturbed command completes at the latest in the step after the last event (R103). -/
theorem completes_of_undisturbed (n : Nat) {s : State} {c : Word} (hn : s.agenda.length = n)
    (hc : s.engine = .busy c) (hs : s.Undisturbed) :
    ∃ k t, k ≤ n + 1 ∧ Sys2Proof.core.run k s = .next t ∧ t.engine = .idle := by
  induction n generalizing s with
  | zero =>
    obtain ⟨t, ht, hstep⟩ := step_of_undisturbed hc hs
    have hnil : s.agenda = [] := List.length_eq_zero_iff.mp hn
    exact ⟨1, t, le_rfl, run_succ_of_step ht 0, hstep.resolve_right fun h => h.1 hnil⟩
  | succ n ih =>
    obtain ⟨t, ht, hi | ⟨-, hbusy, ht', ha⟩⟩ := step_of_undisturbed hc hs
    · exact ⟨1, t, by omega, run_succ_of_step ht 0, hi⟩
    · obtain ⟨k, u, hk, hrun, hu⟩ := ih (by simp [ha, hn]) hbusy ht'
      exact ⟨k + 1, u, by omega, (run_succ_of_step ht k).trans hrun, hu⟩

end Sys2Proof.Machine
end

section
/-! SUPPORT. How commands end: the dimension as the host reads it, the errors each command can report, and the
frame of a completion that writes no result. -/

namespace Sys2Proof.Machine

open Sys2Proof.Spec

/-! ## The dimension -/

theorem dimN_eq_dimension (s : State) : dimN s = dimension s :=
  BitVec.toNat_setWidth_of_le (by decide)

theorem legalDim_iff (s : State) : legalDim s ↔ 1 ≤ dimension s ∧ dimension s ≤ s.nmax.val := by
  rw [legalDim, dimN_eq_dimension]

theorem hostRead_dim (s : State) : hostRead 0x00C s = BitVec.ofNat 32 (dimension s) :=
  (BitVec.ofNat_toNat 32 s.dimN).symm

/-- Under an illegal dimension the check reports it (R109, R183). -/
theorem withDimension_of_illegal {s : State} (h : ¬ legalDim s) (body : Nat → CmdOutcome) :
    withDimension body s = .error .invalidMatrixDimension (hostRead 0x00C s) := by
  rw [withDimension, if_neg (mt (legalDim_iff s).mpr h), hostRead_dim]

/-- A matrix command checks the dimension before anything else (R104, R109). -/
theorem outcomeOf_eq_withDimension {i : Instr} (hi : i ∈ matrixCommands) (s : State) :
    ∃ body, outcomeOf i s = withDimension body s := by
  cases i with
  | mulv | mulvR | det | adj | matinv =>
    simp only [outcomeOf, multiplyOutcome, detOutcome, adjOutcome, matinvOutcome]
    exact ⟨_, rfl⟩
  | nop | canon | modinv => simp at hi

theorem outcomeOf_of_illegal_dimension {i : Instr} {s : State} (hi : i ∈ matrixCommands) (h : ¬ legalDim s) :
    outcomeOf i s = .error .invalidMatrixDimension (hostRead 0x00C s) := by
  obtain ⟨body, hbody⟩ := outcomeOf_eq_withDimension hi s
  rw [hbody, withDimension_of_illegal h]

/-! ## The outcome of a legal word -/

theorem wordOutcome_of_ok {c : Word} {i : Instr} (h : decode c = .ok i) (s : State) :
    wordOutcome c s = outcomeOf i s := by
  rw [wordOutcome, h]

/-! ## The errors of each command -/

/-- The errors a command can report (R181, R187). -/
def Instr.errorCodes : Instr → List ErrCode
  | .nop | .canon => []
  | .mulv | .mulvR | .det | .adj => [.invalidMatrixDimension]
  | .modinv => [.noModularInverse]
  | .matinv => [.invalidMatrixDimension, .nonInvertibleMatrix]

/-- An error behind the dimension check is the check's own or the body's. -/
theorem withDimension_error {body : Nat → CmdOutcome} {s : State} {code : ErrCode} {info : Word}
    (h : withDimension body s = .error code info) :
    code = .invalidMatrixDimension ∨ body (dimension s) = .error code info := by
  rcases withDimension_cases body s with ⟨-, -, hb⟩ | ⟨-, he⟩
  · exact .inr (hb ▸ h)
  · cases he.symm.trans h
    exact .inl rfl

theorem outcomeOf_error {i : Instr} {s : State} {code : ErrCode} {info : Word}
    (h : outcomeOf i s = .error code info) : code ∈ Instr.errorCodes i := by
  cases i with
  | nop | canon => cases h
  | mulv | mulvR | det | adj =>
    simp only [outcomeOf, multiplyOutcome, detOutcome, adjOutcome] at h
    exact List.mem_singleton.mpr ((withDimension_error h).resolve_right nofun)
  | modinv =>
    simp only [outcomeOf, modinvOutcome] at h
    split at h <;> cases h
    exact List.mem_singleton.mpr rfl
  | matinv =>
    rw [outcomeOf, matinvOutcome] at h
    obtain rfl | hbody := withDimension_error h
    · exact .head _
    · split at hbody <;> cases hbody
      exact .tail _ (.head _)

theorem none_not_mem_errorCodes (i : Instr) : ErrCode.none ∉ Instr.errorCodes i := by
  cases i <;> decide

/-- The commands that report an illegal dimension are those that read `DIM` (R109). -/
theorem mem_matrixCommands_of_errorCodes {i : Instr} (h : .invalidMatrixDimension ∈ Instr.errorCodes i) :
    i ∈ matrixCommands := by
  cases i with
  | mulv | mulvR | det | adj | matinv => decide
  | nop | canon | modinv => simp [Instr.errorCodes] at h

/-! ## The error registers after a completion -/

@[simp] theorem complete_ok_errcode (x : ResultWrites) (s : State) : (complete (.ok x) s).errcode = s.errcode := by
  simp [complete]
@[simp] theorem complete_ok_errInfo (x : ResultWrites) (s : State) : (complete (.ok x) s).errInfo = s.errInfo := by
  simp [complete]
@[simp] theorem complete_error_errcode (code : ErrCode) (info : Word) (s : State) :
    (complete (.error code info) s).errcode = code := rfl
@[simp] theorem complete_error_errInfo (code : ErrCode) (info : Word) (s : State) :
    (complete (.error code info) s).errInfo = info := rfl

/-! ## The window after a completion that writes no result -/

theorem windowByte_of_regValue {s t : State} {a : Offset} (hn : t.nmax = s.nmax)
    (h : regValue t (regAt s.nmax.val a) = regValue s (regAt s.nmax.val a)) : windowByte a t = windowByte a s :=
  windowByte_congr (by rw [hostRead, hn, h, hostRead])

theorem regAt_ne_status (n : Nat) {a : Offset} (h : ¬ (0x014 ≤ a.toNat ∧ a.toNat < 0x018)) :
    regAt n a ≠ .status := fun hr =>
  have hword : a.toNat / 4 = 0x014 / 4 := (regAt_eq_iff (regAt_status n) (by decide) a).mp hr
  h (by omega)

theorem regAt_ne_errInfo (n : Nat) {a : Offset} (h : ¬ (0x01C ≤ a.toNat ∧ a.toNat < 0x020)) :
    regAt n a ≠ .errInfo := fun hr =>
  have hword : a.toNat / 4 = 0x01C / 4 := (regAt_eq_iff (regAt_errInfo n) (by decide) a).mp hr
  h (by omega)

/-- Only `STATUS` and `ERR_INFO` show the error, `DONE` and the engine. -/
theorem regValue_completed {r : Reg} (hstatus : r ≠ .status) (hinfo : r ≠ .errInfo) (code : ErrCode) (info : Word)
    (done : Bool) (e : Engine) (s : State) :
    regValue { s with errcode := code, errInfo := info, done := done, engine := e } r = regValue s r := by
  cases r with
  | status => exact absurd rfl hstatus
  | errInfo => exact absurd rfl hinfo
  | _ => rfl

/-- What changes only the error, `DONE` and the engine changes only `STATUS` and `ERR_INFO` in the window. -/
theorem windowSameOutside_completed (code : ErrCode) (info : Word) (done : Bool) (e : Engine) (s : State) :
    WindowSameOutside 0 0 s { s with errcode := code, errInfo := info, done := done, engine := e } :=
  fun _ _ hstatus hinfo => windowByte_of_regValue rfl
    (regValue_completed (regAt_ne_status _ hstatus) (regAt_ne_errInfo _ hinfo) code info done e s)

end Sys2Proof.Machine
end

section
/-! SUPPORT. Which operands the outcome of a command depends on. -/

namespace Sys2Proof.Machine

open Sys2Proof.Spec

/-! ## The outcomes of the matrix commands, inside `N×N` -/

/-- Two matrix files agree in their leading `n×n` block. -/
def SameBlock (n : Nat) (m m' : MatFile) : Prop := ∀ a b, a < n → b < n → matEntry m' a b = matEntry m a b

theorem matInts_congr {n : Nat} {m m' : MatFile} (h : SameBlock n m m') (i j : Nat) (hi : i < n) (hj : j < n) :
    matInts m' i j = matInts m i j :=
  congrArg sint32 (h i j hi hj)

theorem withDimension_congr {s s' : State} {body body' : Nat → CmdOutcome} (hn : s'.nmax = s.nmax)
    (hd : s'.dimN = s.dimN) (hbody : 1 ≤ dimension s → body' (dimension s) = body (dimension s)) :
    withDimension body' s' = withDimension body s := by
  have hdim : dimension s' = dimension s := congrArg BitVec.toNat hd
  rw [withDimension, withDimension, hn, hdim]
  split
  next hlegal => exact hbody hlegal.1
  next => rfl

section
variable {s s' : State} (hn : s'.nmax = s.nmax) (hd : s'.dimN = s.dimN)
include hn hd

theorem multiplyOutcome_congr {m m' : MatFile} (hm : SameBlock (dimension s) m m')
    (hv : ∀ a, a < dimension s → vecEntry s'.v a = vecEntry s.v a) :
    multiplyOutcome m' s' = multiplyOutcome m s := by
  refine withDimension_congr hn hd fun _ => ?_
  have hrow (i : Nat) (hi : i < dimension s) :
      multiplyMatrixVector (dimension s) (matInts m') (vecInts s'.v) i =
        multiplyMatrixVector (dimension s) (matInts m) (vecInts s.v) i :=
    multiplyMatrixVector_congr (matInts_congr hm) (fun j hj => congrArg sint32 (hv j hj)) hi
  rw [zeroFilledVec_congr hrow]

theorem detOutcome_congr (hk : SameBlock (dimension s) s.k s'.k) : detOutcome s' = detOutcome s :=
  withDimension_congr hn hd fun h1 => by rw [determinant_congr h1 (matInts_congr hk)]

theorem adjOutcome_congr (hk : SameBlock (dimension s) s.k s'.k) : adjOutcome s' = adjOutcome s :=
  withDimension_congr hn hd fun _ => by
    rw [zeroFilledMat_congr fun i j hi _ => adjoint_congr (j := j) (matInts_congr hk) hi]

theorem matinvOutcome_congr (hk : SameBlock (dimension s) s.k s'.k) : matinvOutcome s' = matinvOutcome s := by
  refine withDimension_congr hn hd fun h1 => ?_
  have hentry (d : Int) (i j : Nat) (hi : i < dimension s) (_ : j < dimension s) :
      canon (adjoint (dimension s) (matInts s'.k) i j * d) = canon (adjoint (dimension s) (matInts s.k) i j * d) := by
    rw [adjoint_congr (matInts_congr hk) hi]
  simp only [inverseMatrix, determinant_congr h1 (matInts_congr hk)]
  cases modularInverse (canon (determinant (dimension s) (matInts s.k))) with
  | none => rfl
  | some d => exact congrArg (fun m => CmdOutcome.ok (.r m)) (zeroFilledMat_congr (hentry d))

end

/-! ## The operands of each command -/

/-- Two states agree in `NMAX` and in the operands the command reads inside `N×N` (R83, R106). -/
structure SameOperands (i : Instr) (s s' : State) : Prop where
  nmax : s'.nmax = s.nmax
  dimN : i ∈ matrixCommands → s'.dimN = s.dimN
  scalarIn : i ∈ [Instr.canon, .modinv] → s'.scalarIn = s.scalarIn
  k : i ∈ [Instr.mulv, .det, .adj, .matinv] → SameBlock (dimension s) s.k s'.k
  r : i = .mulvR → SameBlock (dimension s) s.r s'.r
  v : i ∈ [Instr.mulv, .mulvR] → ∀ a, a < dimension s → vecEntry s'.v a = vecEntry s.v a

/-- The outcome of a command is decided by its operands (R106). -/
theorem outcomeOf_congr {i : Instr} {s s' : State} (h : SameOperands i s s') : outcomeOf i s' = outcomeOf i s := by
  obtain ⟨hn, hd, hscalar, hk, hr, hv⟩ := h
  cases i with
  | nop => rfl
  | canon => simp only [outcomeOf, canonOutcome, hscalar (by decide)]
  | modinv => simp only [outcomeOf, modinvOutcome, hscalar (by decide)]
  | mulv => exact multiplyOutcome_congr hn (hd (by decide)) (hk (by decide)) (hv (by decide))
  | mulvR => exact multiplyOutcome_congr hn (hd (by decide)) (hr rfl) (hv (by decide))
  | det => exact detOutcome_congr hn (hd (by decide)) (hk (by decide))
  | adj => exact adjOutcome_congr hn (hd (by decide)) (hk (by decide))
  | matinv => exact matinvOutcome_congr hn (hd (by decide)) (hk (by decide))

/-- A successful command leaves in its result registers what it writes, whatever they held (R105, R106). -/
theorem results_of_ok {i : Instr} {s : State} {x : ResultWrites} (h : outcomeOf i s = .ok x) (u u' : State) :
    (i ∈ [Instr.canon, .modinv] → (complete (.ok x) u').scalarOut = (complete (.ok x) u).scalarOut) ∧
    (i = .det → (complete (.ok x) u').detRaw = (complete (.ok x) u).detRaw ∧
      (complete (.ok x) u').detRes = (complete (.ok x) u).detRes) ∧
    (i ∈ [Instr.mulv, .mulvR] → (complete (.ok x) u').w = (complete (.ok x) u).w) ∧
    (i ∈ [Instr.adj, .matinv] → (complete (.ok x) u').r = (complete (.ok x) u).r) := by
  have hwrites := outcomeOf_ok h
  cases i with
  | nop => simp
  | canon | modinv => obtain ⟨y, rfl⟩ := hwrites; simp [complete, performWrites]
  | mulv | mulvR => obtain ⟨f, rfl⟩ := hwrites; simp [complete, performWrites]
  | det => obtain ⟨raw, res, rfl⟩ := hwrites; simp [complete, performWrites]
  | adj | matinv => obtain ⟨m, rfl⟩ := hwrites; simp [complete, performWrites]

end Sys2Proof.Machine
end

section
/-! CERTIFICATES. The statements about control: acceptance, dropped writes, completion, its errors and its
frame. -/

namespace Sys2Proof.Proofs

open Sys2Proof Sys2Proof.Machine Sys2Proof.Spec

/-! ## Acceptance and dropped writes -/

/-- Settles O8: with an IDLE engine the write is the model's acceptance. -/
theorem idleCommandWriteIsAccepted : Obligations.IdleCommandWriteIsAccepted :=
  fun _ _ hw hi => step_of_acceptance hw hi

/-- Settles O9: `CMD` drops a write while the engine is BUSY. -/
theorem busyCommandWriteIsDropped : Obligations.BusyCommandWriteIsDropped :=
  fun _ _ _ hw hc => step_of_dropped_write hw rfl (by simp [hc]) (.inl rfl)

/-- Settles O10: the offsets of R102 reach operand registers, which drop the write; `STATUS`, `IRQ_EN` and
reads do not ask whether the engine is BUSY. -/
theorem busyOperandWritesAreDropped : Obligations.BusyOperandWritesAreDropped := by
  intro s c hc
  refine ⟨fun off x hw hoff => ?_, fun x hw => step_of_hostWrites hw rfl, fun x hw => step_of_hostWrites hw rfl,
    fun off h4 h => step_of_hostHasTurn h ((wellFormed_iff _).mpr ⟨rfl, h4⟩)⟩
  exact step_of_dropped_write hw (operandOffset_aligned hoff) (by simp [hc])
    (.inr (isOperand_of_operandOffset s.nmax.property.2 hoff))

/-! ## Completion -/

/-- Settles O5: the engine's turn completes the word in flight, and every command is its completion. -/
theorem stepRunsTheDecodedCommand : Obligations.StepRunsTheDecodedCommand := by
  intro s c i hturn hc hd
  rw [step_of_completion hturn hc, wordOutcome_of_ok hd, ← exec_eq_complete]
  rfl

/-- Settles O13, by induction on the events the environment still has. -/
theorem acceptedCommandCompletes : Obligations.AcceptedCommandCompletes :=
  fun _ _ hc hr hhosts hreset => completes_of_undisturbed _ rfl hc ⟨hr, hhosts, hreset⟩

/-- Settles O32: a completion that writes nothing. -/
theorem nopCompletes : Obligations.NopCompletes := exec_eq_complete .nop

/-- Settles O42: the dimension check stands before every matrix command, and before no other. -/
theorem illegalDimensionIsReported : Obligations.IllegalDimensionIsReported := by
  refine fun s => ⟨fun hd i hi => ?_, fun i hi hcode => ⟨_, exec_eq_complete i s, ?_⟩⟩
  · rw [exec_eq_complete, outcomeOf_of_illegal_dimension hi hd]
    rfl
  · cases ho : outcomeOf i s with
    | ok x => simp [hcode]
    | error code info =>
      rintro (rfl : code = _)
      exact hi (mem_matrixCommands_of_errorCodes (outcomeOf_error ho))

/-! ## Frames -/

/-- Settles O44: an error is what raised the code, and a completion with an error writes only the error, `DONE`
and the engine. -/
theorem errorsWriteNoResult : Obligations.ErrorsWriteNoResult := by
  intro i s t hcode h herr
  cases (exec_eq_complete i s).symm.trans h
  cases ho : outcomeOf i s with
  | ok x => simp [ho, hcode] at herr
  | error code info => exact ⟨rfl, windowSameOutside_completed code info true .idle s⟩

/-- Settles O49: the completion of NOP writes only `DONE` and the engine. -/
theorem nopFrame : Obligations.NopFrame := by
  intro s t h
  cases (exec_eq_complete .nop s).symm.trans h
  exact ⟨rfl, windowSameOutside_completed s.errcode s.errInfo true .idle s⟩

/-- Settles O51: the same operands give the same outcome, and a completion leaves its outcome in the error
registers and the result registers. -/
theorem outcomeDependsOnlyOnTheOperandsRead : Obligations.OutcomeDependsOnlyOnTheOperandsRead := by
  intro i s s' t t' hcode hinfo hcode' hinfo' hn hd hscalar hk hr hv h h'
  simp only [dimN_eq_dimension] at hk hr hv
  have hsame : outcomeOf i s' = outcomeOf i s := outcomeOf_congr ⟨hn, hd, hscalar, hk, hr, hv⟩
  cases (exec_eq_complete i s).symm.trans h
  cases (exec_eq_complete i s').symm.trans h'
  rw [hsame]
  cases ho : outcomeOf i s with
  | ok x => exact ⟨by simp [hcode, hcode'], by simp [hinfo, hinfo'], fun _ => results_of_ok ho s s'⟩
  | error code info =>
    refine ⟨rfl, rfl, ?_⟩
    rintro (rfl : code = _)
    exact absurd (outcomeOf_error ho) (none_not_mem_errorCodes i)

end Sys2Proof.Proofs
end

section
/-! SUPPORT. The elements of the files as the host reads them, what a completion leaves in the window, and the
range of what each command writes. -/

namespace Sys2Proof.Machine

open Sys2Proof.Spec

/-! ## The residue and the product in Mathlib's words -/

/-- The source's formula read with the truncated remainder is the Euclidean remainder too (R120). -/
theorem tmod_add_tmod_eq_emod (x : Int) : (x.tmod 26 + 26).tmod 26 = x % 26 := by
  have hlow : -26 < x.tmod 26 := Int.lt_tmod_of_pos x (by decide)
  rw [Int.tmod_eq_emod_of_nonneg (by omega), Int.add_emod_right, Int.tmod_eq_emod]
  split <;> omega

/-- `canon` stored in a residue register is the Euclidean remainder (R84, R120). -/
theorem residue5_canon_toNat (x : Int) : ((residue5 (canon x)).toNat : Int) = x % 26 := by
  rw [residue5_toNat (canon_nonneg x) (canon_lt x), canon_eq_emod]

/-- A product lane is the exact sum over its row, stored as a residue (R124). -/
theorem residue5_multiplyMatrixVector_toNat (n : Nat) (m : IntMat) (v : IntVec) (i : Nat) :
    ((residue5 (multiplyMatrixVector n m v i)).toNat : Int) = (∑ j ∈ Finset.range n, m i j * v j) % 26 := by
  rw [multiplyMatrixVector, residue5_canon_toNat, rowSum, sumTo_eq_sum]

/-! ## What the host reads of the registers and files -/

theorem hostRead_scalarIn (s : State) : hostRead 0x024 s = s.scalarIn := rfl
theorem hostRead_scalarOut (s : State) : hostRead 0x028 s = zext32 s.scalarOut := rfl
theorem hostRead_detRes (s : State) : hostRead 0x02C s = zext32 s.detRes := rfl

theorem ofNat8_val {n i : Nat} (hn : n ≤ 7) (hi : i < n) : (Fin.ofNat 8 i).val = i := by
  rw [Fin.val_ofNat, Nat.mod_eq_of_lt (by omega)]

section
variable {s : State} {i j : Nat} (hi : i < s.nmax.val)
include hi

theorem vReg_eq : vReg s i = vecEntry s.v i := by
  rw [vReg, hostRead_eq (regAt_v s.nmax.property.2 hi), regValue, ofNat8_val s.nmax.property.2 hi]

theorem wReg_eq : wReg s i = zext32 (vecEntry s.w i) := by
  rw [wReg, hostRead_eq (regAt_w s.nmax.property.2 hi), regValue, ofNat8_val s.nmax.property.2 hi]

variable (hj : j < s.nmax.val)
include hj

theorem kReg_eq : kReg s i j = matEntry s.k i j := by
  rw [kReg, hostRead_eq (regAt_k s.nmax.property.2 hi hj), regValue, ofNat8_val s.nmax.property.2 hi,
    ofNat8_val s.nmax.property.2 hj]

theorem rReg_eq : rReg s i j = matEntry s.r i j := by
  rw [rReg, hostRead_eq (regAt_r s.nmax.property.2 hi hj), regValue, ofNat8_val s.nmax.property.2 hi,
    ofNat8_val s.nmax.property.2 hj]

end

/-! ## The window after a completion -/

/-- The registers that show what a successful command writes (R83). -/
def ResultWrites.Shows : ResultWrites → Reg → Prop
  | .none, _ => False
  | .scalarOut _, q => q = .scalarOut
  | .w _, q => ∃ i, q = .w i
  | .det _ _, q => q = .detRes ∨ ∃ k, q = .detRaw k
  | .r _, q => ∃ i j, q = .r i j

theorem regValue_performWrites {x : ResultWrites} {r : Reg} (h : ¬ x.Shows r) (s : State) :
    regValue (performWrites x s) r = regValue s r := by
  cases x with
  | none => rfl
  | scalarOut y =>
    cases r with
    | scalarOut => exact absurd rfl h
    | _ => rfl
  | w f =>
    cases r with
    | w i => exact absurd ⟨i, rfl⟩ h
    | _ => rfl
  | det raw res =>
    cases r with
    | detRes => exact absurd (.inl rfl) h
    | detRaw k => exact absurd (.inr ⟨k, rfl⟩) h
    | _ => rfl
  | r m =>
    cases r with
    | r i j => exact absurd ⟨i, j, rfl⟩ h
    | _ => rfl

/-- A byte outside `STATUS`, `ERR_INFO` and the result registers of the command reads as before (R83, R103). -/
theorem windowByte_complete_ok {x : ResultWrites} {s : State} {a : Offset}
    (hstatus : ¬ (0x014 ≤ a.toNat ∧ a.toNat < 0x018)) (hinfo : ¬ (0x01C ≤ a.toNat ∧ a.toNat < 0x020))
    (h : ¬ x.Shows (regAt s.nmax.val a)) : windowByte a (complete (.ok x) s) = windowByte a s :=
  windowByte_of_regValue (complete_nmax _ s)
    ((regValue_completed (regAt_ne_status _ hstatus) (regAt_ne_errInfo _ hinfo) _ _ true .idle
      (performWrites x s)).trans (regValue_performWrites h s))

/-- A successful command whose result registers lie in `[lo, hi)` leaves the window outside it. -/
theorem windowSameOutside_complete_ok {x : ResultWrites} {lo hi : Nat}
    (h : ∀ r, x.Shows r → r ≠ .reserved ∧ lo ≤ 4 * r.slot ∧ 4 * r.slot + 4 ≤ hi) (s : State) :
    WindowSameOutside lo hi s (complete (.ok x) s) := by
  refine fun a hout hstatus hinfo => windowByte_complete_ok hstatus hinfo fun hshows => hout ?_
  obtain ⟨hreg, hlo, hhi⟩ := h _ hshows
  have hslot : (regAt s.nmax.val a).slot = a.toNat / 4 := (slot_slotReg _ _).resolve_left hreg
  omega

/-- A command that ends with an error leaves every result register (R105). -/
theorem windowSameOutside_complete_error (lo hi : Nat) (code : ErrCode) (info : Word) (s : State) :
    WindowSameOutside lo hi s (complete (.error code info) s) :=
  fun a _ => windowSameOutside_completed code info true .idle s a (by omega)

/-! ## The writes of each command, and their range -/

section
variable {i : Instr} {s : State} {x : ResultWrites} (h : outcomeOf i s = .ok x)
include h

theorem scalarOut_of_ok (hi : i ∈ [Instr.canon, .modinv]) : ∃ y, x = .scalarOut y := by
  have hwrites := outcomeOf_ok h
  cases i with
  | canon | modinv => exact hwrites
  | _ => simp at hi

theorem w_of_ok (hi : i ∈ [Instr.mulv, .mulvR]) : ∃ f, x = .w f := by
  have hwrites := outcomeOf_ok h
  cases i with
  | mulv | mulvR => exact hwrites
  | _ => simp at hi

theorem r_of_ok (hi : i ∈ [Instr.adj, .matinv]) : ∃ m, x = .r m := by
  have hwrites := outcomeOf_ok h
  cases i with
  | adj | matinv => exact hwrites
  | _ => simp at hi

/-- What a successful command writes is sound, whatever word `LAST_CMD` holds: no command reads it. -/
theorem sound_of_ok : x.Sound s.nmax.val := by
  have hlast : outcomeOf i { s with lastCmd := encode i } = outcomeOf i s :=
    outcomeOf_congr ⟨rfl, fun _ => rfl, fun _ => rfl, fun _ _ _ _ _ => rfl, fun _ _ _ _ _ => rfl, fun _ _ _ => rfl⟩
  have hsound := outcomeOf_sound (i := i) (s := { s with lastCmd := encode i }) rfl
  rwa [hlast, h] at hsound

end

/-- The body of a successful matrix command ran under a legal dimension and succeeded. -/
theorem withDimension_ok {body : Nat → CmdOutcome} {s : State} {x : ResultWrites} (h : withDimension body s = .ok x) :
    dimension s ≤ s.nmax.val ∧ body (dimension s) = .ok x := by
  rcases withDimension_cases body s with ⟨-, hle, hb⟩ | ⟨-, he⟩
  · exact ⟨hle, hb ▸ h⟩
  · cases he.symm.trans h

/-- The matrix a command writes is a zero-filled matrix of residues (R110, R122). -/
theorem zeroFilledMat_of_ok {i : Instr} {s : State} {m : MatFile} (h : outcomeOf i s = .ok (.r m)) :
    ∃ f : IntMat, m = zeroFilledMat (dimension s) f ∧ ∀ a b, 0 ≤ f a b ∧ f a b < 26 := by
  have hwrites := outcomeOf_ok h
  cases i with
  | nop | canon | modinv | mulv | mulvR | det => simp at hwrites
  | adj =>
    rw [outcomeOf, adjOutcome] at h
    cases (withDimension_ok h).2
    exact ⟨_, rfl, adjoint_range _ _⟩
  | matinv =>
    rw [outcomeOf, matinvOutcome] at h
    have hbody := (withDimension_ok h).2
    rcases inverseMatrix_spec (dimension s) (matInts s.k) with ⟨hm, -⟩ | ⟨d, hm, -⟩ <;> rw [hm] at hbody <;>
      cases hbody
    exact ⟨_, rfl, fun _ _ => ⟨canon_nonneg _, canon_lt _⟩⟩

theorem matEntry_zeroFilledMat_lt (n : Nat) {f : IntMat} (hf : ∀ a b, 0 ≤ f a b ∧ f a b < 26) {i j : Nat}
    (hi : i < 8) (hj : j < 8) : (matEntry (zeroFilledMat n f) i j).toNat < 26 := by
  rw [matEntry_zeroFilledMat n f hi hj]
  split
  · obtain ⟨h0, h26⟩ := hf i j
    have := residue32_toNat h0 h26
    omega
  · decide

/-! ## The product of the multiply commands -/

/-- Under a legal dimension a multiply writes its product and completes (R124, R125). -/
theorem complete_multiplyOutcome {s : State} (h : legalDim s) (m : MatFile) :
    complete (multiplyOutcome m s) s =
      completed { s with w := zeroFilledVec (dimN s) (multiplyMatrixVector (dimN s) (matInts m) (vecInts s.v)) } := by
  rw [multiplyOutcome, withDimension, if_pos ((legalDim_iff s).mp h), dimN_eq_dimension]
  rfl

/-- The lanes of `W` after a multiply by a matrix file that the host reads as `reg` (R124, R126, R110). -/
theorem wReg_complete_multiplyOutcome {s : State} (h : legalDim s) {m : MatFile} {reg : Nat → Nat → Word}
    (hreg : ∀ {i j}, i < s.nmax.val → j < s.nmax.val → reg i j = matEntry m i j) {i : Nat} (hi : i < s.nmax.val) :
    ((wReg (complete (multiplyOutcome m s) s) i).toNat : Int) =
      if i < dimN s then (∑ j ∈ Finset.range (dimN s), (reg i j).toInt * (vReg s j).toInt) % 26 else 0 := by
  have hn := s.nmax.property.2
  rw [wReg_eq (s := complete (multiplyOutcome m s) s) (by simpa using hi), complete_multiplyOutcome h, zext32_toNat,
    vecEntry_zeroFilledVec _ _ (by omega)]
  split
  · rw [residue5_multiplyMatrixVector_toNat]
    refine congrArg (· % 26) (Finset.sum_congr rfl fun j hj => ?_)
    have hjn : j < s.nmax.val := (Finset.mem_range.mp hj).trans_le h.2
    rw [hreg hi hjn, vReg_eq hjn]
    rfl
  · rfl

end Sys2Proof.Machine
end

section
/-! CERTIFICATES. The statements about the scalar and the multiply commands: their results, their frames, the
range of every residue result, and the laws of `canon`. -/

namespace Sys2Proof.Proofs

open Sys2Proof Sys2Proof.Machine Sys2Proof.Spec

/-! ## The laws of `canon` -/

/-- Settles O52: both readings of `mod` give the Euclidean remainder. -/
theorem canonIsTheSameUnderBothReadings : Obligations.CanonIsTheSameUnderBothReadings :=
  fun x => ⟨canon_eq_emod x, (canon_eq_emod x).trans (tmod_add_tmod_eq_emod x).symm, canon_nonneg x, canon_lt x⟩

/-- Settles O53: `canon` is the Euclidean remainder, which sums and products respect. -/
theorem canonMayBeAppliedEarly : Obligations.CanonMayBeAppliedEarly := by
  intro a b
  simp only [canon_eq_emod]
  exact ⟨Int.add_emod a b 26, Int.mul_emod a b 26⟩

/-! ## The results -/

/-- Settles O33: `CANON` has one outcome, the residue of the signed word. -/
theorem canonWritesTheResidue : Obligations.CanonWritesTheResidue := by
  refine fun s => ⟨_, exec_eq_complete .canon s, rfl, ?_⟩
  rw [hostRead_scalarOut, zext32_toNat, hostRead_scalarIn]
  exact residue5_canon_toNat _

/-- Settles O34: the product of the multiply commands, with `K` for the matrix. -/
theorem mulvWritesTheReducedProduct : Obligations.MulvWritesTheReducedProduct := by
  refine fun s h => ⟨_, exec_eq_complete .mulv s, ?_, fun i hi => wReg_complete_multiplyOutcome h kReg_eq hi⟩
  rw [outcomeOf, complete_multiplyOutcome h]

/-- Settles O35: the product of the multiply commands, with `R` for the matrix. -/
theorem mulvRWritesTheReducedProduct : Obligations.MulvRWritesTheReducedProduct := by
  refine fun s h => ⟨_, exec_eq_complete .mulvR s, ?_, fun i hi => wReg_complete_multiplyOutcome h rReg_eq hi⟩
  rw [outcomeOf, complete_multiplyOutcome h]

/-- Settles O50: an error is no success; a success wrote sound scalars and vectors, or a matrix of residues. -/
theorem resultsAreResidues : Obligations.ResultsAreResidues := by
  intro i s t _ h hsuccess
  cases (exec_eq_complete i s).symm.trans h
  have hn := s.nmax.property.2
  cases ho : outcomeOf i s with
  | error code info =>
    rw [ho, complete_error_errcode] at hsuccess
    exact absurd (hsuccess ▸ outcomeOf_error ho) (none_not_mem_errorCodes i)
  | ok x =>
    have hsound := sound_of_ok ho
    refine ⟨fun hi => ?_, fun hi => ?_, fun hi j hj => ?_, fun hi j k hj hk => ?_⟩
    · obtain ⟨y, rfl⟩ := scalarOut_of_ok ho hi
      rwa [hostRead_scalarOut, zext32_toNat]
    · subst hi
      obtain ⟨raw, res, rfl⟩ := outcomeOf_ok ho
      rwa [hostRead_detRes, zext32_toNat]
    · obtain ⟨f, rfl⟩ := w_of_ok ho hi
      rw [wReg_eq (by simpa using hj), zext32_toNat]
      exact (hsound ⟨j, by omega⟩).1
    · obtain ⟨m, rfl⟩ := r_of_ok ho hi
      obtain ⟨f, rfl, hf⟩ := zeroFilledMat_of_ok ho
      rw [rReg_eq (by simpa using hj) (by simpa using hk)]
      exact matEntry_zeroFilledMat_lt _ hf (by omega) (by omega)

/-! ## Frames -/

/-- Settles O45: a scalar command writes `SCALAR_OUT` or ends with an error. -/
theorem scalarCommandsFrame : Obligations.ScalarCommandsFrame := by
  intro i hi s t h
  cases (exec_eq_complete i s).symm.trans h
  cases ho : outcomeOf i s with
  | error code info => exact ⟨rfl, windowSameOutside_complete_error _ _ code info s⟩
  | ok x =>
    obtain ⟨y, rfl⟩ := scalarOut_of_ok ho hi
    exact ⟨rfl, windowSameOutside_complete_ok (by rintro r (rfl : r = .scalarOut); decide) s⟩

/-- Settles O46: a multiply command writes `W`, whose lanes are the words from 0x280 to 0x29C, or ends with an
error. -/
theorem multiplyCommandsFrame : Obligations.MultiplyCommandsFrame := by
  intro i hi s t h
  cases (exec_eq_complete i s).symm.trans h
  cases ho : outcomeOf i s with
  | error code info => exact ⟨rfl, windowSameOutside_complete_error _ _ code info s⟩
  | ok x =>
    obtain ⟨f, rfl⟩ := w_of_ok ho hi
    refine ⟨rfl, windowSameOutside_complete_ok ?_ s⟩
    rintro r ⟨a, rfl⟩
    have := a.isLt
    exact ⟨nofun, by simp only [Reg.slot]; omega, by simp only [Reg.slot]; omega⟩

end Sys2Proof.Proofs
end

section
/-! SUPPORT. The determinant and the adjugate of the model are Mathlib's, and the determinant of a block of
register words fits in 256 bits. -/

namespace Sys2Proof.Machine

/-! ## The leading block of a matrix, and its minors -/

/-- The leading `n×n` block of `m` as a Mathlib matrix. -/
def block (n : Nat) (m : IntMat) : Matrix (Fin n) (Fin n) Int := Matrix.of fun i j => m i.val j.val

@[simp] theorem block_apply (n : Nat) (m : IntMat) (i j : Fin n) : block n m i j = m i.val j.val := rfl

/-- `Fin.succAbove` skips an index as the model's `minor` does. -/
theorem val_succAbove_eq_ite {n : Nat} (i : Fin (n + 1)) (a : Fin n) :
    (i.succAbove a).val = if a.val < i.val then a.val else a.val + 1 := by
  rw [Fin.succAbove, apply_ite Fin.val]
  rfl

/-- The model's minor is Mathlib's submatrix without one row and one column (R140). -/
theorem block_minor {n : Nat} (m : IntMat) (i j : Fin (n + 1)) :
    block n (minor m i.val j.val) = (block (n + 1) m).submatrix i.succAbove j.succAbove := by
  ext a b
  rw [Matrix.submatrix_apply, block_apply, block_apply, val_succAbove_eq_ite, val_succAbove_eq_ite, minor]

/-- The sign of a position is the power of -1 of Laplace's expansion (R141, R145). -/
theorem cofactorSign_eq_pow (i j : Nat) : cofactorSign i j = (-1) ^ (i + j) := by
  rw [neg_one_pow_eq_ite (R := Int), cofactorSign]
  simp only [Nat.even_iff]

/-! ## The determinant and the adjugate -/

/-- By induction along the expansion, each minor a block of one size less (R141). -/
theorem determinant_eq_det (n : Nat) (m : IntMat) : determinant n m = (block n m).det := by
  induction n, m using determinant.induct with
  | case1 m => exact Matrix.det_isEmpty.symm
  | case2 m => exact (Matrix.det_fin_one (block 1 m)).symm
  | case3 n m ih =>
    rw [determinant_succ_succ, sumTo_eq_sum, Finset.sum_range, Matrix.det_succ_row_zero]
    refine Finset.sum_congr rfl fun f _ => ?_
    rw [ih f.val, cofactorSign_eq_pow, zero_add, ← Fin.succAbove_zero, ← block_minor]
    rfl

/-- An entry of the model's adjugate is the residue of Mathlib's (R145). -/
theorem adjoint_eq_adjugate {n : Nat} (m : IntMat) (i j : Fin n) :
    adjoint n m i.val j.val = (block n m).adjugate i j % 26 := by
  match n, i, j with
  | 1, i, j => rw [Matrix.adjugate_subsingleton, Subsingleton.elim i j, Matrix.one_apply_eq]; rfl
  | n + 2, i, j =>
    rw [adjoint, if_neg (by omega), canon_eq_emod, Matrix.adjugate_fin_succ_eq_det_submatrix, ← block_minor,
      ← determinant_eq_det, cofactorSign_eq_pow]
    rfl

/-! ## Products modulo 26 -/

theorem canon_eq_of_modEq {a b : Int} (h : a ≡ b [ZMOD 26]) : canon a = canon b := by
  rw [canon_eq_emod, canon_eq_emod]
  exact h

/-- Factors that agree modulo 26 have products that agree modulo 26 (R121). -/
theorem sum_range_mul_modEq {n : Nat} {f g : IntMat} {A B : Matrix (Fin n) (Fin n) Int}
    (hf : ∀ i j : Fin n, f i j ≡ A i j [ZMOD 26]) (hg : ∀ i j : Fin n, g i j ≡ B i j [ZMOD 26]) (i j : Fin n) :
    ∑ k ∈ Finset.range n, f i k * g k j ≡ (A * B) i j [ZMOD 26] := by
  rw [Finset.sum_range, Matrix.mul_apply]
  exact Int.ModEq.sum fun k _ => (hf i k).mul (hg k j)

/-- The residues of the determinant times the identity (R147). -/
theorem canon_det_smul_one (n : Nat) (m : IntMat) (i j : Fin n) :
    canon (((block n m).det • (1 : Matrix (Fin n) (Fin n) Int)) i j) =
      if i.val = j.val then canon (determinant n m) else 0 := by
  rw [determinant_eq_det, Matrix.smul_apply, Matrix.one_apply, smul_eq_mul]
  by_cases h : i = j
  · rw [if_pos h, if_pos (congrArg Fin.val h), mul_one]
  · rw [if_neg h, if_neg (mt Fin.ext h), mul_zero, canon_eq_emod, Int.zero_emod]

/-- The cofactor identity modulo 26, in both orders (R147). -/
theorem canon_adjoint_mul (n : Nat) (m : IntMat) (i j : Fin n) :
    canon (∑ k ∈ Finset.range n, adjoint n m i k * m k j) =
      (if i.val = j.val then canon (determinant n m) else 0) ∧
    canon (∑ k ∈ Finset.range n, m i k * adjoint n m k j) =
      (if i.val = j.val then canon (determinant n m) else 0) := by
  have hadj (a b : Fin n) : adjoint n m a b ≡ (block n m).adjugate a b [ZMOD 26] := by
    rw [adjoint_eq_adjugate]
    exact Int.mod_modEq _ _
  have hm (a b : Fin n) : m a b ≡ block n m a b [ZMOD 26] := rfl
  constructor
  · rw [canon_eq_of_modEq (sum_range_mul_modEq hadj hm i j), Matrix.adjugate_mul, canon_det_smul_one]
  · rw [canon_eq_of_modEq (sum_range_mul_modEq hm hadj i j), Matrix.mul_adjugate, canon_det_smul_one]

/-! ## The size of the determinant -/

/-- The bound of R143: `7!` products of seven factors of at most `2^31`. -/
theorem abs_determinant_lt {n : Nat} {m : IntMat} (hn : n ≤ 7) (h : ∀ i j, i < n → j < n → |m i j| ≤ 2 ^ 31) :
    |determinant n m| < 2 ^ 255 := by
  have hdet : |(block n m).det| ≤ n.factorial • (2 ^ 31) ^ n := by
    simpa using Matrix.det_le (A := block n m) (abv := AbsoluteValue.abs) fun i j => h i j i.isLt j.isLt
  calc |determinant n m| ≤ n.factorial • (2 ^ 31) ^ n := determinant_eq_det n m ▸ hdet
    _ ≤ Nat.factorial 7 • (2 ^ 31) ^ 7 := by gcongr; norm_num
    _ < 2 ^ 255 := by decide

/-- A register word is a signed integer of 32 bits (R9). -/
theorem abs_matInts_le (m : MatFile) (i j : Nat) : |matInts m i j| ≤ 2 ^ 31 :=
  abs_le.mpr ⟨BitVec.le_toInt _, (BitVec.toInt_lt (x := matEntry m i j)).le⟩

/-- `DET_RAW`, read as one signed word, holds such a value exactly (R15). -/
theorem detWord_toInt {d : Int} (h : |d| < 2 ^ 255) : (detWord d).toInt = d := by
  obtain ⟨hlow, hhigh⟩ := abs_lt.mp h
  simp only [detWord, BitVec.toInt_ofInt, Int.bmod_def]
  omega

end Sys2Proof.Machine
end

section
/-! SUPPORT. What DET and ADJ leave in the registers, as the host reads it, and which bytes of the window show
the two result registers of DET. -/

namespace Sys2Proof.Machine

open Sys2Proof.Spec

/-! ## The results of DET and ADJ -/

theorem kMatrix_eq_block {s : State} {n : Nat} (h : n ≤ s.nmax.val) : kMatrix s n = block n (matInts s.k) := by
  ext i j
  exact congrArg BitVec.toInt (kReg_eq (i.isLt.trans_le h) (j.isLt.trans_le h))

theorem hostRead_detRaw (s : State) {k : Nat} (hk : k < 8) :
    hostRead (offset (0x040 + 4 * k)) s = detRawWord s.detRaw k := by
  rw [hostRead_eq (regAt_detRaw _ hk), regValue, Fin.val_ofNat, Nat.mod_eq_of_lt hk]

/-- The elements of `R` after a completion that writes a zero-filled result (R110). -/
theorem rReg_completed_zeroFilledMat {s : State} (n : Nat) (f : IntMat) {i j : Nat} (hi : i < s.nmax.val)
    (hj : j < s.nmax.val) :
    rReg (completed { s with r := zeroFilledMat n f }) i j = if i < n ∧ j < n then residue32 (f i j) else 0 := by
  have hn := s.nmax.property.2
  rw [rReg_eq (s := completed { s with r := zeroFilledMat n f }) hi hj,
    matEntry_zeroFilledMat n f (by omega) (by omega)]

section
variable {s : State} (h : legalDim s)
include h

/-- Under a legal dimension DET writes the determinant of `K_N` and its residue, and completes (R144). -/
theorem complete_detOutcome : complete (detOutcome s) s = completed { s with
    detRaw := detWord (kMatrix s (dimN s)).det, detRes := residue5 (canon (kMatrix s (dimN s)).det) } := by
  rw [kMatrix_eq_block h.2, ← determinant_eq_det, detOutcome, withDimension, if_pos ((legalDim_iff s).mp h),
    dimN_eq_dimension]
  rfl

/-- The determinant of a key of legal dimension is what its 256-bit word stores (R143, R15). -/
theorem detWord_kMatrix_toInt : (detWord (kMatrix s (dimN s)).det).toInt = (kMatrix s (dimN s)).det := by
  rw [kMatrix_eq_block h.2, ← determinant_eq_det]
  exact detWord_toInt (abs_determinant_lt (h.2.trans s.nmax.property.2) fun i j _ _ => abs_matInts_le s.k i j)

/-- Under a legal dimension ADJ writes the adjugate of `K_N`, zero-filled, and completes (R146). -/
theorem complete_adjOutcome : complete (adjOutcome s) s =
    completed { s with r := zeroFilledMat (dimN s) (adjoint (dimN s) (matInts s.k)) } := by
  rw [adjOutcome, withDimension, if_pos ((legalDim_iff s).mp h), dimN_eq_dimension]
  rfl

end

/-! ## The window outside the results of DET -/

/-- An offset that reaches a register lies in the word slot of that register. -/
theorem toNat_div_four_of_regAt {n : Nat} {a : Offset} {r : Reg} (h : regAt n a = r) (hr : r ≠ .reserved) :
    a.toNat / 4 = r.slot := by
  subst h
  exact ((slot_slotReg n _).resolve_left hr).symm

/-- Outside `DET_RAW` and `DET_RES` no byte of the window shows what DET writes. -/
theorem not_shows_det {raw : BitVec 256} {res : BitVec 5} {n : Nat} {a : Offset}
    (hraw : ¬ (0x040 ≤ a.toNat ∧ a.toNat < 0x060)) (hres : ¬ (0x02C ≤ a.toNat ∧ a.toNat < 0x030)) :
    ¬ (ResultWrites.det raw res).Shows (regAt n a) := by
  rintro (hreg | ⟨k, hreg⟩)
  · have hslot : a.toNat / 4 = 11 := toNat_div_four_of_regAt hreg nofun
    omega
  · have hslot : a.toNat / 4 = 16 + k.val := toNat_div_four_of_regAt hreg nofun
    omega

end Sys2Proof.Machine
end

section
/-! CERTIFICATES. The statements about the determinant and the adjugate: the two functions in Mathlib's words, the
results of DET and ADJ, and the frames of the commands on the key matrix. -/

namespace Sys2Proof.Proofs

open Sys2Proof Sys2Proof.Machine Sys2Proof.Spec

/-! ## The two functions -/

/-- Settles O54, by induction along the expansion. -/
theorem laplaceExpansionIsTheDeterminant : Obligations.LaplaceExpansionIsTheDeterminant :=
  fun n m _ => determinant_eq_det n m

/-- Settles O55: the bound of R143 on the sum over the permutations. -/
theorem determinantFitsIn256Bits : Obligations.DeterminantFitsIn256Bits := by
  intro n m _ hn h
  refine abs_lt.mp (abs_determinant_lt hn fun i j hi hj => abs_le.mpr ?_)
  obtain ⟨hlow, hhigh⟩ := h i j hi hj
  exact ⟨hlow, hhigh.trans (by decide)⟩

/-- Settles O56: Mathlib's identity for the adjugate, read modulo 26. -/
theorem cofactorIdentity : Obligations.CofactorIdentity :=
  fun n m _ i j hi hj => canon_adjoint_mul n m ⟨i, hi⟩ ⟨j, hj⟩

/-! ## The results -/

/-- Settles O36: DET writes the determinant, which its 256-bit word holds exactly. -/
theorem detWritesTheExactDeterminant : Obligations.DetWritesTheExactDeterminant := by
  intro s h
  refine ⟨_, (exec_eq_complete .det s).trans (congrArg _ (complete_detOutcome h)), rfl,
    fun k hk => hostRead_detRaw _ hk, detWord_kMatrix_toInt h, ?_⟩
  rw [hostRead_detRes, zext32_toNat]
  exact residue5_canon_toNat _

/-- Settles O37: ADJ writes the zero-filled adjugate, whatever the determinant is. -/
theorem adjWritesTheReducedAdjugate : Obligations.AdjWritesTheReducedAdjugate := by
  intro s h
  refine ⟨_, (exec_eq_complete .adj s).trans (congrArg _ (complete_adjOutcome h)), rfl, fun i j => ?_,
    fun i j hi hj hout => ?_⟩
  · obtain ⟨h0, h26⟩ := adjoint_range (dimN s) (matInts s.k) i j
    rw [rReg_completed_zeroFilledMat _ _ (i.isLt.trans_le h.2) (j.isLt.trans_le h.2), if_pos ⟨i.isLt, j.isLt⟩,
      residue32_toNat h0 h26, kMatrix_eq_block h.2, adjoint_eq_adjugate]
  · rw [rReg_completed_zeroFilledMat _ _ hi hj, if_neg (by omega)]

/-! ## Frames -/

/-- Settles O47: DET writes `DET_RAW` and `DET_RES`, or ends with an error. -/
theorem detFrame : Obligations.DetFrame := by
  intro s t h
  cases (exec_eq_complete .det s).symm.trans h
  cases ho : outcomeOf .det s with
  | error code info =>
    exact ⟨rfl, fun a _ _ hstatus hinfo =>
      windowSameOutside_completed code info true .idle s a (by omega) hstatus hinfo⟩
  | ok x =>
    obtain ⟨raw, res, rfl⟩ := outcomeOf_ok ho
    exact ⟨rfl, fun a hraw hres hstatus hinfo => windowByte_complete_ok hstatus hinfo (not_shows_det hraw hres)⟩

/-- Settles O48: ADJ and MATINV write `R`, whose elements are the words from 0x300 to 0x3FC, or end with an
error. -/
theorem matrixResultCommandsFrame : Obligations.MatrixResultCommandsFrame := by
  intro i hi s t h
  cases (exec_eq_complete i s).symm.trans h
  cases ho : outcomeOf i s with
  | error code info => exact ⟨rfl, windowSameOutside_complete_error _ _ code info s⟩
  | ok x =>
    obtain ⟨m, rfl⟩ := r_of_ok ho hi
    refine ⟨rfl, windowSameOutside_complete_ok ?_ s⟩
    rintro r ⟨a, b, rfl⟩
    have := a.isLt
    have := b.isLt
    exact ⟨nofun, by simp only [Reg.slot]; omega, by simp only [Reg.slot]; omega⟩

end Sys2Proof.Proofs
end

section
/-! SUPPORT. The two inverses: how MODINV and MATINV end, and that what MATINV leaves in `R` is an inverse of `K_N`. -/

namespace Sys2Proof.Machine

open Sys2Proof.Spec

/-! ## How MODINV and MATINV end -/

/-- Everything MODINV can answer: NoModularInverse with the residue, or the inverse (R162). -/
theorem modinvOutcome_cases (s : State) :
    (modinvOutcome s = .error .noModularInverse (residue32 (sint32 s.scalarIn % 26)) ∧
      Int.gcd (sint32 s.scalarIn % 26) 26 ≠ 1) ∨
    ∃ x, modinvOutcome s = .ok (.scalarOut (residue5 x)) ∧ Int.gcd (sint32 s.scalarIn % 26) 26 = 1 ∧
      1 ≤ x ∧ x < 26 ∧ (sint32 s.scalarIn * x) % 26 = 1 := by
  rw [← canon_eq_emod, modinvOutcome]
  obtain ⟨hm, hg⟩ | ⟨x, hm, hx⟩ := modularInverse_spec (sint32 s.scalarIn)
  · exact .inl ⟨by rw [hm], hg⟩
  · exact .inr ⟨x, by rw [hm], hx⟩

/-- Under a legal dimension a matrix command is its body (R109). -/
theorem withDimension_of_legal {s : State} (h : legalDim s) (body : Nat → CmdOutcome) :
    withDimension body s = body (dimN s) := by
  rw [withDimension, if_pos ((legalDim_iff s).mp h), dimN_eq_dimension]

/-- The adjugate times `dInv`, reduced: the entries `inverseMatrix` gives for an inverse `dInv` of the
determinant (R163). -/
def scaledAdjoint (n : Nat) (m : IntMat) (dInv : Int) : IntMat := fun i j => canon (adjoint n m i j * dInv)

/-- Everything MATINV can answer under a legal dimension: NonInvertibleMatrix with the residue of the determinant,
or the adjugate times its inverse (R164). -/
theorem matinvOutcome_cases {s : State} (h : legalDim s) :
    (matinvOutcome s = .error .nonInvertibleMatrix (residue32 ((kMatrix s (dimN s)).det % 26)) ∧
      Int.gcd ((kMatrix s (dimN s)).det % 26) 26 ≠ 1) ∨
    ∃ dInv, matinvOutcome s = .ok (.r (zeroFilledMat (dimN s) (scaledAdjoint (dimN s) (matInts s.k) dInv))) ∧
      Int.gcd ((kMatrix s (dimN s)).det % 26) 26 = 1 ∧
      1 ≤ dInv ∧ dInv < 26 ∧ ((kMatrix s (dimN s)).det * dInv) % 26 = 1 := by
  rw [matinvOutcome, withDimension_of_legal h, kMatrix_eq_block h.2, ← determinant_eq_det, ← canon_eq_emod]
  obtain ⟨hm, hg⟩ | ⟨d, hm, hd⟩ := inverseMatrix_spec (dimN s) (matInts s.k)
  · exact .inl ⟨by rw [hm], hg⟩
  · exact .inr ⟨d, by rw [hm]; rfl, hd⟩

theorem complete_r (m : MatFile) (s : State) : complete (.ok (.r m)) s = completed { s with r := m } := rfl

/-! ## The entries MATINV writes -/

theorem scaledAdjoint_eq_adjugate {n : Nat} (m : IntMat) (dInv : Int) (i j : Fin n) :
    scaledAdjoint n m dInv i.val j.val = ((block n m).adjugate i j * dInv) % 26 := by
  rw [scaledAdjoint, canon_eq_emod, adjoint_eq_adjugate]
  exact (Int.mod_modEq _ 26).mul_right dInv

/-- The file MATINV writes, read as signed integers, agrees modulo 26 with the adjugate times `dInv` (R84, R164). -/
theorem block_scaledAdjoint_modEq {n : Nat} (hn : n ≤ 7) (m : IntMat) (dInv : Int) (i j : Fin n) :
    block n (matInts (zeroFilledMat n (scaledAdjoint n m dInv))) i j ≡
      (dInv • (block n m).adjugate) i j [ZMOD 26] := by
  have hres : (residue32 (scaledAdjoint n m dInv i j)).toInt = scaledAdjoint n m dInv i j :=
    residue32_toInt (canon_nonneg _) (canon_lt _)
  rw [block_apply, matInts, matEntry_zeroFilledMat _ _ (by omega) (by omega), if_pos ⟨i.isLt, j.isLt⟩, sint32, hres,
    scaledAdjoint_eq_adjugate, Matrix.smul_apply, smul_eq_mul, mul_comm dInv]
  exact Int.mod_modEq _ 26

/-! ## The inverse identity -/

/-- `B` is a two-sided inverse of `A` modulo 26. -/
def InverseModulo26 {n : Nat} (A B : Matrix (Fin n) (Fin n) Int) : Prop :=
  ∀ i j, (A * B) i j ≡ (1 : Matrix (Fin n) (Fin n) Int) i j [ZMOD 26] ∧
    (B * A) i j ≡ (1 : Matrix (Fin n) (Fin n) Int) i j [ZMOD 26]

section
variable {n : Nat} {A B B' : Matrix (Fin n) (Fin n) Int}

/-- Scaled by an inverse of the determinant, the adjugate is an inverse: either product is `det * dInv` times the
identity (R147, R165). -/
theorem inverseModulo26_smul_adjugate {dInv : Int} (hd : (A.det * dInv) % 26 = 1) :
    InverseModulo26 A (dInv • A.adjugate) := by
  intro i j
  have hunit : A.det * dInv ≡ 1 [ZMOD 26] := hd
  rw [Matrix.mul_smul, Matrix.mul_adjugate, Matrix.smul_mul, Matrix.adjugate_mul, smul_smul, mul_comm dInv,
    Matrix.smul_apply, smul_eq_mul, and_self]
  simpa only [one_mul] using hunit.mul_right ((1 : Matrix (Fin n) (Fin n) Int) i j)

/-- Being an inverse depends on the residues of the entries only (R121). -/
theorem inverseModulo26_congr (h : InverseModulo26 A B) (hB : ∀ i j, B' i j ≡ B i j [ZMOD 26]) :
    InverseModulo26 A B' := by
  intro i j
  obtain ⟨hAB, hBA⟩ := h i j
  rw [Matrix.mul_apply] at hAB hBA ⊢
  rw [Matrix.mul_apply]
  exact ⟨(Int.ModEq.sum fun k _ => (hB k j).mul_left (A i k)).trans hAB,
    (Int.ModEq.sum fun k _ => (hB i k).mul_right (A k j)).trans hBA⟩

/-- An entry of such a product, as a sum over the indices and reduced, is that of the identity. -/
theorem sum_range_emod_eq_ite (f g : IntMat) {i j : Nat} (hi : i < n) (hj : j < n)
    (h : (block n f * block n g) ⟨i, hi⟩ ⟨j, hj⟩ ≡ (1 : Matrix (Fin n) (Fin n) Int) ⟨i, hi⟩ ⟨j, hj⟩ [ZMOD 26]) :
    (∑ k ∈ Finset.range n, f i k * g k j) % 26 = if i = j then 1 else 0 := by
  rw [Finset.sum_range]
  refine Eq.trans h ?_
  rw [Matrix.one_apply, apply_ite (· % 26)]
  simp only [Fin.mk.injEq, Int.reduceMod]

end

/-- `R_N` is an inverse of `K_N` modulo 26, at a legal dimension. -/
structure State.RInvertsK (t : State) : Prop where
  dimension_pos : 1 ≤ dimension t
  dimension_le : dimension t ≤ t.nmax.val
  inverse : InverseModulo26 (block (dimension t) (matInts t.k)) (block (dimension t) (matInts t.r))

/-- A MATINV without error wrote `R` only, and `R_N` then is an inverse of `K_N` (R164, R165). -/
theorem rInvertsK_of_matinv {s t : State} (h : exec .matinv s = .next t) (ht : t.errcode = .none) :
    (∃ m, t = completed { s with r := m }) ∧ t.RInvertsK := by
  cases (exec_eq_complete .matinv s).symm.trans h
  by_cases hlegal : legalDim s
  · rw [outcomeOf] at ht ⊢
    obtain ⟨ho, -⟩ | ⟨dInv, ho, -, -, -, hd⟩ := matinvOutcome_cases hlegal <;> rw [ho] at ht ⊢
    · cases ht
    · rw [kMatrix_eq_block hlegal.2, dimN_eq_dimension] at hd
      obtain ⟨hpos, hle⟩ := (legalDim_iff s).mp hlegal
      rw [complete_r, dimN_eq_dimension]
      exact ⟨⟨_, rfl⟩, hpos, hle, inverseModulo26_congr (inverseModulo26_smul_adjugate hd)
        (block_scaledAdjoint_modEq (dimension_le s) (matInts s.k) dInv)⟩
  · rw [outcomeOf_of_illegal_dimension (by decide) hlegal] at ht
    cases ht

/-- `R_N` as a matrix of integers, as the host reads it (R11). -/
abbrev rMatrix (s : State) (n : Nat) : Matrix (Fin n) (Fin n) Int :=
  Matrix.of fun i j => (rReg s i.val j.val).toInt

theorem rMatrix_eq_block {s : State} {n : Nat} (h : n ≤ s.nmax.val) : rMatrix s n = block n (matInts s.r) := by
  ext i j
  exact congrArg BitVec.toInt (rReg_eq (i.isLt.trans_le h) (j.isLt.trans_le h))

end Sys2Proof.Machine
end

section
/-! SUPPORT. The round trip: the lanes of a multiply as a matrix times a vector, and the host's copy of `W` into
`V`. -/

namespace Sys2Proof.Machine

open Sys2Proof.Spec

/-! ## Multiplying by a matrix and by its inverse -/

/-- `V_N` as a vector of integers (R11). -/
def vecBlock (n : Nat) (v : VecFile 32) : Fin n → Int := fun j => vecInts v j.val

/-- The residues of a product are those of the product of the residues (R121). -/
theorem mulVec_modEq {n : Nat} {A B : Matrix (Fin n) (Fin n) Int} {v w : Fin n → Int} {i : Fin n}
    (hA : ∀ j, A i j ≡ B i j [ZMOD 26]) (hv : ∀ j, v j ≡ w j [ZMOD 26]) :
    A.mulVec v i ≡ B.mulVec w i [ZMOD 26] := by
  rw [Matrix.mulVec, Matrix.mulVec, dotProduct, dotProduct]
  exact Int.ModEq.sum fun j _ => (hA j).mul (hv j)

/-- Multiplying by a matrix and then, from residues of the product, by its inverse gives back the residues of the
vector (R166). -/
theorem mulVec_inverse_modEq {n : Nat} {A B : Matrix (Fin n) (Fin n) Int} (h : InverseModulo26 A B)
    {v w : Fin n → Int} (hw : ∀ j, w j ≡ A.mulVec v j [ZMOD 26]) (i : Fin n) : B.mulVec w i ≡ v i [ZMOD 26] := by
  calc B.mulVec w i ≡ B.mulVec (A.mulVec v) i [ZMOD 26] := mulVec_modEq (fun _ => rfl) hw
    _ = (B * A).mulVec v i := by rw [Matrix.mulVec_mulVec]
    _ ≡ (1 : Matrix (Fin n) (Fin n) Int).mulVec v i [ZMOD 26] := mulVec_modEq (fun j => (h i j).2) fun _ => rfl
    _ = v i := by rw [Matrix.one_mulVec]

/-- Under a legal dimension a multiply command changes `W` only, whose lanes are the reduced product (R124, R125). -/
theorem lanes_of_multiply {i : Instr} {s t : State} {m : MatFile} {n : Nat} (hn : dimension s = n)
    (hi : outcomeOf i s = multiplyOutcome m s) (hpos : 1 ≤ n) (hle : n ≤ s.nmax.val) (ht : exec i s = .next t) :
    ∃ w, t = completed { s with w := w } ∧ ∀ a : Fin n, ((vecEntry w a.val).toNat : Int) =
      (block n (matInts m)).mulVec (vecBlock n s.v) a % 26 := by
  subst hn
  cases (exec_eq_complete i s).symm.trans ht
  rw [hi, complete_multiplyOutcome ((legalDim_iff s).mpr ⟨hpos, hle⟩), dimN_eq_dimension]
  refine ⟨_, rfl, fun a => ?_⟩
  have h7 := dimension_le s
  rw [vecEntry_zeroFilledVec _ _ (by omega), if_pos a.isLt, residue5_multiplyMatrixVector_toNat, Finset.sum_range]
  rfl

/-! ## Copying `W` into `V` -/

/-- A residue register reads as the same number signed and unsigned. -/
theorem zext32_toInt (x : BitVec 5) : (zext32 x).toInt = x.toNat := by
  have hx := x.isLt
  rw [BitVec.toInt_eq_toNat_of_lt (by rw [zext32_toNat]; omega), zext32_toNat]

/-- While IDLE a host write to `V[j]` replaces that element (R37, R65). -/
theorem hostWrite_v_of_idle {s : State} (hi : s.engine = .idle) {j : Nat} (hj : j < s.nmax.val) (x : Word) :
    hostWrite (offset (0x200 + 4 * j)) x s = { s with v := vecSet s.v (Fin.ofNat 8 j) x } := by
  rw [hostWrite_eq (regAt_v s.nmax.property.2 hj), regWrite, unlessBusy_of_idle _ hi]

/-- The host writes lanes `0` to `n - 1` of the `W` it read in `u` into `V` (R166). -/
def copyLanes (u : State) (n : Nat) : State :=
  (List.range n).foldl (fun y j => hostWrite (offset (0x200 + 4 * j)) (wReg u j) y) u

/-- While IDLE, by induction on the lanes: the copy changes `V` only, and the copied lanes stand there. -/
theorem copyLanes_eq {u : State} (hu : u.engine = .idle) {n : Nat} (hn : n ≤ u.nmax.val) :
    ∃ f, copyLanes u n = { u with v := f } ∧ ∀ j, j < n → vecInts f j = (vecEntry u.w j).toNat := by
  induction n with
  | zero => exact ⟨u.v, rfl, nofun⟩
  | succ n ih =>
    obtain ⟨f, hcopy, hf⟩ := ih (by omega)
    have hval : (Fin.ofNat 8 n).val = n := ofNat8_val u.nmax.property.2 hn
    refine ⟨vecSet f (Fin.ofNat 8 n) (wReg u n), ?_, fun j hj => ?_⟩
    · rw [copyLanes, List.range_succ, List.foldl_concat, ← copyLanes, hcopy]
      exact hostWrite_v_of_idle (s := { u with v := f }) hu hn _
    · obtain hjn | hjn : j < n ∨ j = (Fin.ofNat 8 n).val := by omega
      · rw [vecInts, vecEntry_vecSet_ne _ _ _ (by omega)]
        exact hf j hjn
      · rw [vecInts, hjn, vecEntry_vecSet_same, hval, wReg_eq hn, sint32, zext32_toInt]

/-- Where `R_N` is an inverse of `K_N`, MULV, the copy and MULV.R leave the residues of the vector (R166). -/
theorem lanes_of_roundTrip {t u x : State} (h : t.RInvertsK) (hu : exec .mulv t = .next u)
    (hx : exec .mulvR (copyLanes u (dimN u)) = .next x) :
    x.nmax = t.nmax ∧ ∀ i : Fin (dimension t), ((vecEntry x.w i.val).toNat : Int) = vecInts t.v i.val % 26 := by
  obtain ⟨hpos, hle, hinverse⟩ := h
  obtain ⟨w, rfl, hw⟩ := lanes_of_multiply (i := .mulv) (m := t.k) rfl rfl hpos hle hu
  obtain ⟨f, hcopy, hf⟩ := copyLanes_eq (u := completed { t with w := w }) rfl hle
  rw [dimN_eq_dimension] at hx
  obtain ⟨w', rfl, hw'⟩ := lanes_of_multiply (i := .mulvR) (s := completed { t with w := w, v := f }) (m := t.r)
    (n := dimension t) rfl rfl hpos hle ((congrArg (exec .mulvR) hcopy).symm.trans hx)
  have hcopied (j : Fin (dimension t)) : vecBlock (dimension t) f j ≡
      (block (dimension t) (matInts t.k)).mulVec (vecBlock (dimension t) t.v) j [ZMOD 26] := by
    rw [vecBlock, hf j j.isLt, hw j]
    exact Int.mod_modEq _ 26
  exact ⟨rfl, fun i => (hw' i).trans (mulVec_inverse_modEq (v := vecBlock (dimension t) t.v) hinverse hcopied i)⟩

end Sys2Proof.Machine
end

section
/-! CERTIFICATES. The statements about inversion: the units of Z/26, the results and the errors of MODINV and
MATINV, and the two laws of the source that rest on them. -/

namespace Sys2Proof.Proofs

open Sys2Proof Sys2Proof.Machine Sys2Proof.Spec

/-! ## The units -/

/-- Settles O39: the table, one residue at a time. -/
theorem unitsOfZ26 : Obligations.UnitsOfZ26 :=
  ⟨rfl, rfl, rfl, rfl, rfl, rfl, rfl, rfl, rfl, rfl, rfl, rfl, by decide⟩

/-! ## The results and the errors -/

/-- Settles O38: the two answers of MODINV, each excluded by the other's condition. -/
theorem modinvWritesTheInverseOrFails : Obligations.ModinvWritesTheInverseOrFails := by
  intro s
  rw [hostRead_scalarIn, exec_eq_complete, outcomeOf]
  obtain ⟨ho, hg⟩ | ⟨x, ho, hg, h1, h26, hx⟩ := modinvOutcome_cases s <;> rw [ho]
  · exact ⟨fun h => absurd h hg, fun _ => rfl⟩
  · refine ⟨fun _ => ⟨_, rfl, rfl, ?_⟩, fun h => absurd hg h⟩
    have hval : ((hostRead 0x028 (complete (.ok (.scalarOut (residue5 x))) s)).toNat : Int) = x := by
      rw [hostRead_scalarOut, zext32_toNat]
      exact residue5_toNat (by omega) h26
    exact ⟨by omega, by omega, by rwa [hval]⟩

/-- Settles O40: the answer of MATINV on an invertible key, entry by entry. -/
theorem matinvWritesTheInverse : Obligations.MatinvWritesTheInverse := by
  intro s h hg
  obtain ⟨-, hnot⟩ | ⟨dInv, ho, -, h1, h26, hd⟩ := matinvOutcome_cases h
  · exact absurd hg hnot
  · rw [exec_eq_complete, outcomeOf, ho, complete_r]
    refine ⟨_, dInv, rfl, rfl, h1, h26, hd, fun i j => ?_, fun i j hi hj hout => ?_⟩
    · rw [rReg_completed_zeroFilledMat _ _ (i.isLt.trans_le h.2) (j.isLt.trans_le h.2), if_pos ⟨i.isLt, j.isLt⟩,
        scaledAdjoint_eq_adjugate, kMatrix_eq_block h.2]
      exact residue32_toNat (Int.emod_nonneg _ (by decide)) (Int.emod_lt_of_pos _ (by decide))
    · rw [rReg_completed_zeroFilledMat _ _ hi hj, if_neg (by omega)]

/-- Settles O41: the answer of MATINV on every other key. -/
theorem matinvFailsOnANonInvertibleKey : Obligations.MatinvFailsOnANonInvertibleKey := by
  intro s h hg
  obtain ⟨ho, -⟩ | ⟨-, -, hunit, -⟩ := matinvOutcome_cases h
  · rw [exec_eq_complete, outcomeOf, ho]
    rfl
  · exact absurd hunit hg

/-! ## The laws -/

/-- Settles O57: the cofactor identity, with the determinant scaled to 1. -/
theorem inverseIdentity : Obligations.InverseIdentity := by
  intro s t _ h ht i j hi hj
  obtain ⟨-, -, hle, hinverse⟩ := rInvertsK_of_matinv h ht
  rw [← kMatrix_eq_block hle, ← rMatrix_eq_block hle, ← dimN_eq_dimension] at hinverse
  obtain ⟨hKR, hRK⟩ := hinverse ⟨i, hi⟩ ⟨j, hj⟩
  exact ⟨sum_range_emod_eq_ite (fun a b => (kReg t a b).toInt) (fun a b => (rReg t a b).toInt) hi hj hKR,
    sum_range_emod_eq_ite (fun a b => (rReg t a b).toInt) (fun a b => (kReg t a b).toInt) hi hj hRK⟩

/-- Settles O58: the lanes are the residues of the vector, and a residue is its own. -/
theorem encryptDecryptRoundTrip : Obligations.EncryptDecryptRoundTrip := by
  intro s t u x _ ht hcode hu hx i hi
  obtain ⟨⟨m, rfl⟩, hinv⟩ := rInvertsK_of_matinv ht hcode
  obtain ⟨hn, hlanes⟩ := lanes_of_roundTrip hinv hu hx
  rw [dimN_eq_dimension] at hi
  have hin : i < s.nmax.val := hi.trans_le hinv.dimension_le
  have hlane : ((wReg x i).toNat : Int) = (vReg s i).toInt % 26 := by
    rw [wReg_eq (hn ▸ hin), vReg_eq hin, zext32_toNat]
    exact hlanes ⟨i, hi⟩
  refine ⟨hlane, fun hres => BitVec.eq_of_toNat_eq ?_⟩
  have hsigned : (vReg s i).toInt = (vReg s i).toNat := BitVec.toInt_eq_toNat_of_lt (by omega)
  omega

end Sys2Proof.Proofs
end

section
/-! SUPPORT. What an outcome reports: the code and the information a completion leaves, and for each command the first
error that applies. -/

namespace Sys2Proof.Machine

open Sys2Proof.Spec

/-! ## What a completion reports -/

/-- The code and the information an outcome leaves in error registers that acceptance has cleared (R103, R181). -/
def CmdOutcome.report : CmdOutcome → BitVec 4 × Word
  | .ok _ => (0x0, 0)
  | .error code info => (code.code, info)

theorem hostRead_status_errcode (s : State) : (hostRead 0x014 s).extractLsb' 8 4 = s.errcode.code :=
  statusWord_errcode s

theorem hostRead_errInfo (s : State) : hostRead 0x01C s = s.errInfo := rfl

theorem hostRead_complete_report {s : State} (hcode : s.errcode = .none) (hinfo : s.errInfo = 0) (o : CmdOutcome) :
    ((hostRead 0x014 (complete o s)).extractLsb' 8 4, hostRead 0x01C (complete o s)) = o.report := by
  rw [hostRead_status_errcode, hostRead_errInfo]
  cases o with
  | ok x => simp [hcode, hinfo, CmdOutcome.report, ErrCode.code]
  | error code info => rfl

/-! ## How a word in flight ends -/

/-- How a word ends does not depend on the events to come (R106). -/
theorem wordOutcome_dequeue (c : Word) (s : State) : wordOutcome c (dequeue s) = wordOutcome c s := by
  cases hd : decode c with
  | ok i =>
    rw [wordOutcome_of_ok hd, wordOutcome_of_ok hd]
    cases i <;> rfl
  | error e => rw [wordOutcome_of_error hd, wordOutcome_of_error hd]

/-- A word that is no command reports itself (R108, R182). -/
theorem report_of_not_command {c : Word} (h : c ∉ commandWords) (s : State) :
    (wordOutcome c s).report = (0x1, c) := by
  rw [mem_commandWords_iff, not_exists, ← decode_error_iff_forall_ne] at h
  obtain ⟨e, hd⟩ := h
  rw [wordOutcome_of_error hd]
  rfl

/-! ## The words of the commands that have an error -/

/-- Each command has a word of its own (R81). -/
theorem encode_eq_encode_iff (i j : Instr) : encode i = encode j ↔ i = j := by
  rw [eq_comm, ← decode_eq_ok_iff, decode_encode, Except.ok.injEq, eq_comm]

/-- 0x05 is the word of MODINV (R81). -/
theorem encode_eq_modinvWord_iff (i : Instr) : encode i = 0x05 ↔ i = .modinv := encode_eq_encode_iff i .modinv

/-- 0x06 is the word of MATINV (R81). -/
theorem encode_eq_matinvWord_iff (i : Instr) : encode i = 0x06 ↔ i = .matinv := encode_eq_encode_iff i .matinv

/-- The words of the commands that read `DIM` (R109). -/
theorem encode_mem_matrixWords_iff (i : Instr) :
    encode i ∈ [0x02, 0x12, 0x03, 0x04, (0x06 : Word)] ↔ i ∈ matrixCommands := by
  cases i with
  | nop | canon | mulv | mulvR | det | adj | modinv | matinv => decide

/-! ## The arithmetic errors -/

/-- MODINV reports a residue without an inverse, and nothing else (R184). -/
theorem report_modinv (s : State) : (outcomeOf .modinv s).report =
    if Int.gcd ((hostRead 0x024 s).toInt % 26) 26 ≠ 1 then (0x3, BitVec.ofInt 32 ((hostRead 0x024 s).toInt % 26))
    else (0x0, 0) := by
  rw [outcomeOf, hostRead_scalarIn]
  obtain ⟨ho, hg⟩ | ⟨x, ho, hg, -⟩ := modinvOutcome_cases s <;> rw [ho]
  · exact (if_pos hg).symm
  · exact (if_neg (not_not_intro hg)).symm

/-- Under a legal dimension MATINV reports a determinant without an inverse, and nothing else (R185). -/
theorem report_matinv {s : State} (h : legalDim s) : (outcomeOf .matinv s).report =
    if Int.gcd ((kMatrix s (dimN s)).det % 26) 26 ≠ 1 then (0x4, BitVec.ofInt 32 ((kMatrix s (dimN s)).det % 26))
    else (0x0, 0) := by
  rw [outcomeOf]
  obtain ⟨ho, hg⟩ | ⟨dInv, ho, hg, -⟩ := matinvOutcome_cases h <;> rw [ho]
  · exact (if_pos hg).symm
  · exact (if_neg (not_not_intro hg)).symm

/-- The commands that compute no inverse report no error, unless the dimension they read is illegal (R187). -/
theorem report_of_no_inverse {i : Instr} {s : State} (hmodinv : i ≠ .modinv) (hmatinv : i ≠ .matinv)
    (h : i ∈ matrixCommands → legalDim s) : (outcomeOf i s).report = (0x0, 0) := by
  cases i with
  | nop | canon => rfl
  | mulv | mulvR => rw [outcomeOf, multiplyOutcome, withDimension_of_legal (h (by decide))]; rfl
  | det => rw [outcomeOf, detOutcome, withDimension_of_legal (h (by decide))]; rfl
  | adj => rw [outcomeOf, adjOutcome, withDimension_of_legal (h (by decide))]; rfl
  | modinv => exact absurd rfl hmodinv
  | matinv => exact absurd rfl hmatinv

end Sys2Proof.Machine
end

section
/-! CERTIFICATES. The statement about the order of the errors. -/

namespace Sys2Proof.Proofs

open Sys2Proof Sys2Proof.Machine Sys2Proof.Spec

/-- Settles O43: the decoder stands before the dimension check, and that before the arithmetic of each command. -/
theorem eachCommandReportsTheFirstErrorThatApplies : Obligations.EachCommandReportsTheFirstErrorThatApplies := by
  intro s c hc hturn hcode hinfo
  refine ⟨_, step_of_completion hturn hc, ?_⟩
  rw [hostRead_complete_report (s := dequeue s) hcode hinfo, wordOutcome_dequeue]
  by_cases hword : c ∈ commandWords
  case neg => rw [if_pos hword, report_of_not_command hword]
  obtain ⟨i, rfl⟩ := (mem_commandWords_iff c).mp hword
  rw [if_neg (not_not_intro hword), wordOutcome_of_ok (decode_encode i)]
  simp only [encode_mem_matrixWords_iff, encode_eq_modinvWord_iff, encode_eq_matinvWord_iff]
  by_cases hdim : i ∈ matrixCommands ∧ ¬ legalDim s
  case pos =>
    rw [if_pos hdim, outcomeOf_of_illegal_dimension hdim.1 hdim.2]
    rfl
  have hlegal (hi : i ∈ matrixCommands) : legalDim s := by_contra fun h => hdim ⟨hi, h⟩
  rw [if_neg hdim]
  by_cases hmodinv : i = .modinv
  · subst hmodinv
    simp [report_modinv]
  by_cases hmatinv : i = .matinv
  · subst hmatinv
    simp [report_matinv (hlegal (by decide))]
  · simp [hmodinv, hmatinv, report_of_no_inverse hmodinv hmatinv hlegal]

end Sys2Proof.Proofs
end

section
/-! SUPPORT. The step under reset, and how the scalar commands end while `SCALAR_IN` is 0. -/

namespace Sys2Proof.Machine

open Sys2Proof.Spec

/-! ## The step under reset -/

theorem nextEvent_eq_rst_iff (level : Bool) (s : State) :
    nextEvent s = .rst level ↔ s.agenda.head? = some (.rst level) := by
  cases h : s.agenda <;> simp [nextEvent, h]

/-- A level of `rst` that is high, or was high before, leaves the block at reset with that level (R210). -/
theorem step_of_rst {s : State} {level : Bool} (he : nextEvent s = .rst level) (h : level = true ∨ s.rst = true) :
    step s = .next (resetBlock level (dequeue s)) := by
  rw [step_eq_takeEvent, he, takeEvent, setRst, dequeue_rst, if_pos (Bool.or_eq_true_iff.mpr h)]

/-- While reset acts, a step that is not refused leaves the block at reset, whatever its event (R210). -/
theorem step_of_resetActs {s : State} (h : ResetActs s) (hnext : ∃ t, step s = .next t) :
    step s = .next (resetBlock (nextEvent s != .rst false) (dequeue s)) := by
  obtain ⟨t, ht⟩ := hnext
  exact ht.trans (congrArg _ (eq_resetBlock_of_step ht h))

/-! ## The scalar commands while `SCALAR_IN` is 0 -/

theorem canonOutcome_of_scalarIn_zero {s : State} (h : s.scalarIn = 0) : canonOutcome s = .ok (.scalarOut 0) := by
  rw [canonOutcome, h]
  rfl

/-- 0 has no inverse modulo 26, and its residue is 0 (R162). -/
theorem modinvOutcome_of_scalarIn_zero {s : State} (h : s.scalarIn = 0) :
    modinvOutcome s = .error .noModularInverse 0 := by
  obtain ⟨ho, -⟩ | ⟨-, -, hunit, -⟩ := modinvOutcome_cases s
  · rw [ho, h]
    rfl
  · rw [h] at hunit
    exact absurd hunit (by decide)

end Sys2Proof.Machine
end

section
/-! CERTIFICATES. The statements about reset and about the commands before the dimension is configured. -/

namespace Sys2Proof.Proofs

open Sys2Proof Sys2Proof.Machine Sys2Proof.Spec

/-- Settles O30: a level of `rst` decides its own step; under any other event `rst` stays high, and the hosts that
keep to the port are never refused. -/
theorem rstHoldsTheBlockAtReset : Obligations.RstHoldsTheBlockAtReset := by
  refine fun s => ⟨fun l he h => step_of_rst ((nextEvent_eq_rst_iff l s).mpr he) h, fun hr hhosts hne => ?_⟩
  have hhigh : (nextEvent s != .rst false) = true :=
    bne_iff_ne.mpr (mt (nextEvent_eq_rst_iff false s).mp hne)
  rw [step_of_resetActs (.inl hr) (step_isNext hhosts), hhigh]
  rfl

/-- Settles O31: the dimension check, NOP, the two scalar commands at 0, and the reset values they meet. -/
theorem commandsBeforeConfiguration : Obligations.CommandsBeforeConfiguration := by
  refine ⟨fun s => (illegalDimensionIsReported s).1, nopCompletes, fun s h => ⟨?_, ?_⟩, by decide, by decide, rfl⟩
  · rw [exec_eq_complete, outcomeOf, canonOutcome_of_scalarIn_zero h]
    rfl
  · rw [exec_eq_complete, outcomeOf, modinvOutcome_of_scalarIn_zero h]
    rfl

end Sys2Proof.Proofs
end
